-- ==== Sys2Proof/Config.lean ====
section
/-! DEFINITION. The configuration of the engine (R6): the four open parameters, one field each, their value on this
hardware, and the numbers that the source fixes or that follow. -/

namespace Sys2Proof.Config

/-- The parameters that R6 leaves open (D4, D16, D30, U18), one field each. Every width and bound of the model is
written with them. -/
structure Params where
  /-- `AW`: bits of an address in SPR and FB, and of `SRC_LEN`, `PITCH`; at most the 32 of a register (R20). -/
  aw : Nat
  /-- `MASK_W`: bits of one mask word. -/
  maskW : Nat
  /-- `MSK_WORDS`: words in the MSK space, a power of two (R26). -/
  mskWords : Nat
  /-- `WIDTH_BITS`: bits of the `WIDTH` field and of `X`; at most the 16 that `WIDTH` and `FAULT_X` hold (R23, R29). -/
  widthBits : Nat
deriving DecidableEq, Repr

/-- The value that R6 gives for this hardware. The model of another instance of the engine is this text with another
value here (log entry 20). -/
abbrev hardware : Params where
  aw := 32
  maskW := 64
  mskWords := 256
  widthBits := 16

/-- `AW`. -/
abbrev AW : Nat := hardware.aw

/-- `MASK_W`. -/
abbrev MASK_W : Nat := hardware.maskW

/-- `MSK_WORDS`. -/
abbrev MSK_WORDS : Nat := hardware.mskWords

/-- `WIDTH_BITS`. -/
abbrev WIDTH_BITS : Nat := hardware.widthBits

/-- Bits of the `MASK_ADDR` field: `log2(MSK_WORDS)` (R26). -/
abbrev MASK_ADDR_BITS : Nat := Nat.log2 MSK_WORDS

/-- `PIXW`: bits per pixel, a palette index (R6). -/
abbrev PIXW : Nat := 8

/-- `NPAL`: palette entries, entries per light table, side of the blend table (R6). -/
abbrev NPAL : Nat := 256

/-- `NLEVEL`: brightness levels 0..15 (R6). -/
abbrev NLEVEL : Nat := 16

/-- `NSPECIAL`: special light tables (R6). -/
abbrev NSPECIAL : Nat := 4

/-- `NMROWS`: rows per tile mask array (R6, C13). -/
abbrev NMROWS : Nat := 32

/-- `LT_BYTES`: size of the LT space (R6). -/
abbrev LT_BYTES : Nat := (NLEVEL + NSPECIAL) * NPAL

/-- `BL_BYTES`: size of the BL space (R6). -/
abbrev BL_BYTES : Nat := NPAL * NPAL

end Sys2Proof.Config
end

