-- ==== Sys2Proof/Word.lean ====
section
/-! DEFINITION. The words of the engine: what the spec treats as bits, at the widths of R6 and R14. -/

namespace Sys2Proof

/-- A byte of SPR, LT, BL or FB: a control byte, a palette index, a table entry (R36). -/
abbrev Byte := BitVec Config.PIXW

/-- An address of SPR or FB, and the registers of that width (R6). -/
abbrev Addr := BitVec Config.AW

/-- `SP` and `SEND`: one bit more than an address, so that `2^AW` is a value (R14, R16). -/
abbrev SPtr := BitVec (Config.AW + 1)

/-- A position in a row or a run length in pixels (R14). -/
abbrev Pos := BitVec Config.WIDTH_BITS

/-- One mask word (R36, R37). -/
abbrev MaskWord := BitVec Config.MASK_W

/-- The index of a mask word in MSK (R26, R49). -/
abbrev MaskIndex := BitVec Config.MASK_ADDR_BITS

/-- What a host access moves: a whole 32-bit register (R20, R31). -/
abbrev Reg32 := BitVec 32

end Sys2Proof
end

