-- ==== Sys2Proof/Syntax.lean ====
section
/-! DEFINITION. The instructions: one constructor per row of spec/opcode_table.json (R2, R58). -/

namespace Sys2Proof

/-- The thirteen operations of the engine. Payload and pixel bytes are data of the SPR space, not operands
(R61); the address and the source byte of a pixel operation come from the working registers (R45, R46). -/
inductive Instr where
  /-- `RSVD0`, the reserved control byte `0x00` (R80). -/
  | rsvd0
  /-- `LIT`, a literal run; `m` is the magnitude field `M` of the control byte, the run length (R59, R78). -/
  | lit (m : BitVec 7)
  /-- `SKIP`, a skip run; `m` is the magnitude field `M` of the control byte, the run length being
  `128 - m` (R59, R60, R79). -/
  | skip (m : BitVec 7)
  /-- `RAWROW`, one opaque row of `WIDTH` pixel bytes (R81). -/
  | rawrow
  /-- `PIX_COPY`, selector `1 b 00` (R66, R112). -/
  | pixCopy (b : Bool)
  /-- `PIX_REMAP`, selector `1 b 01` (R66, R114). -/
  | pixRemap (b : Bool)
  /-- `PIX_FILL0`, selector `1 b 10` (R66, R113). -/
  | pixFill0 (b : Bool)
  /-- `PIX_BLEND0`, selector `0 1 lc` (R66, R115). -/
  | pixBlend0 (lc : BitVec 2)
  /-- `PIX_KEEP`, selector `0 0 lc` (R66, R116). -/
  | pixKeep (lc : BitVec 2)
  /-- `START`, a host write of any value to offset `0x24` (R67, R123). -/
  | start (v : Reg32)
  /-- `STATUS_CLR`, a host write to offset `0x28` (R67, R126). -/
  | statusClr (v : Reg32)
  /-- `WR`, a host register write at another offset (R67, R121). -/
  | wr (off : BitVec 8) (v : Reg32)
  /-- `RD`, a host register read (R67, R122). -/
  | rd (off : BitVec 8)
deriving DecidableEq, Repr

end Sys2Proof
end

