-- ==== Sys2Proof/WellFormed.lean ====
section
/-! DEFINITION. Which terms of `Instr` some encoding stands for. -/

namespace Sys2Proof

/-- A register offset: the window holds whole 32-bit registers (R20, R31). -/
def alignedOffset (off : BitVec 8) : Bool := off.extractLsb' 0 2 == 0#2

/-- The operand values an encoding admits. `LIT` has no length 0, since the byte `0x00` is `RSVD0` (R60, R64);
host accesses are whole registers (R31); writes at `0x24` and `0x28` are `START` and `STATUS_CLR` (R67). -/
def Instr.wellFormed : Instr → Bool
  | .rsvd0 => true
  | .lit m => m != 0#7
  | .skip _ => true
  | .rawrow => true
  | .pixCopy _ => true
  | .pixRemap _ => true
  | .pixFill0 _ => true
  | .pixBlend0 _ => true
  | .pixKeep _ => true
  | .start _ => true
  | .statusClr _ => true
  | .wr off _ => alignedOffset off && off != 0x24#8 && off != 0x28#8
  | .rd off => alignedOffset off

end Sys2Proof
end

