-- ==== Sys2Proof/Decode.lean ====
section
/-! DEFINITION. The three encoding formats of R58, the decoder (total, rejecting by name) and the encoder. -/

namespace Sys2Proof

/-- The size of a host access. Only `word` is a whole register (R31). -/
inductive AccessSize where
  | byte | half | word
deriving DecidableEq, Repr

/-- A host access to the register window: a read or a write of some size at a byte offset (R67). -/
inductive BusAccess where
  | read (size : AccessSize) (off : BitVec 8)
  | write (size : AccessSize) (off : BitVec 8) (v : Reg32)
deriving DecidableEq, Repr

/-- What carries an instruction: the three kinds of encoding of R58. -/
inductive Code where
  /-- Format `C8`: a control byte of the stream under `FMT = RLE` (R59). -/
  | c8 (c : Byte)
  /-- Format `RAW`: a row of the stream under `FMT = OPAQUE`, with no opcode byte (R62). -/
  | raw
  /-- A pixel operation's selector `PSEL = e ++ b ++ lc` (R66). -/
  | psel (p : BitVec 4)
  /-- A host command (R67). -/
  | bus (a : BusAccess)
deriving DecidableEq, Repr

/-- Why the decoder gives no instruction. -/
inductive Reject where
  /-- A host access narrower than a register (R31, U13). -/
  | narrowAccess
  /-- A host access at an offset that is no register boundary, hence not of a whole register (R31). -/
  | unalignedAccess
  /-- A selector with `e = 1` and light class 3, which is never formed (R65, R66). -/
  | selectorNeverFormed
deriving DecidableEq, Repr

/-- The control byte's opcode, in the order of R64: `RSVD0`, then `LIT`, then `SKIP`. -/
def decodeC8 (c : Byte) : Instr :=
  if c = 0x00#8 then .rsvd0
  else if c.msb then .skip (c.extractLsb' 0 7)
  else .lit (c.extractLsb' 0 7)

/-- The operation a selector names (R66). -/
def decodePsel (p : BitVec 4) : Except Reject Instr :=
  let lc := p.extractLsb' 0 2
  let b := p.getLsbD 2
  if p.getLsbD 3 then
    if lc = 0#2 then .ok (.pixCopy b)
    else if lc = 1#2 then .ok (.pixRemap b)
    else if lc = 2#2 then .ok (.pixFill0 b)
    else .error .selectorNeverFormed
  else if b then .ok (.pixBlend0 lc)
  else .ok (.pixKeep lc)

/-- The host command of an access (R67, R121, R122); what is no access to a whole register is refused (R31). -/
def decodeAccess : BusAccess → Except Reject Instr
  | .read .word off => if alignedOffset off then .ok (.rd off) else .error .unalignedAccess
  | .write .word off v =>
    if alignedOffset off then
      if off = 0x24#8 then .ok (.start v)
      else if off = 0x28#8 then .ok (.statusClr v)
      else .ok (.wr off v)
    else .error .unalignedAccess
  | .read _ _ => .error .narrowAccess
  | .write _ _ _ => .error .narrowAccess

/-- The decoder: every code is an instruction or is rejected by name. -/
def decode : Code → Except Reject Instr
  | .c8 c => .ok (decodeC8 c)
  | .raw => .ok .rawrow
  | .psel p => decodePsel p
  | .bus a => decodeAccess a

/-- The selector `e ++ b ++ lc` (R66). -/
def pselOf (e b : Bool) (lc : BitVec 2) : BitVec 4 := BitVec.ofBool e ++ BitVec.ofBool b ++ lc

/-- The control byte `K ++ M` (R59). -/
def controlByte (k : Bool) (m : BitVec 7) : Byte := BitVec.ofBool k ++ m

/-- The encoder, from the same tables: R64, R62, R66, R67. -/
def encode : Instr → Code
  | .rsvd0 => .c8 0x00#8
  | .lit m => .c8 (controlByte false m)
  | .skip m => .c8 (controlByte true m)
  | .rawrow => .raw
  | .pixCopy b => .psel (pselOf true b 0#2)
  | .pixRemap b => .psel (pselOf true b 1#2)
  | .pixFill0 b => .psel (pselOf true b 2#2)
  | .pixBlend0 lc => .psel (pselOf false true lc)
  | .pixKeep lc => .psel (pselOf false false lc)
  | .start v => .bus (.write .word 0x24#8 v)
  | .statusClr v => .bus (.write .word 0x28#8 v)
  | .wr off v => .bus (.write .word off v)
  | .rd off => .bus (.read .word off)

/-- Run length of a `LIT`: `zext(c[6:0])` (R60). -/
def litLen (m : BitVec 7) : Pos := m.setWidth Config.WIDTH_BITS

/-- Run length of a `SKIP`: `256 - zext(c)` for the control byte `c = 1 ++ m` (R60). -/
def skipLen (m : BitVec 7) : Pos := 256#Config.WIDTH_BITS - (controlByte true m).setWidth Config.WIDTH_BITS

/-- The host command written as one number, as the model lays it out (log entry 8): the register offset in
bits 7:0 (the table's match and mask stand on it), the 32-bit value in bits 39:8, bit 40 set for a read. -/
def accessOfWord (w : Nat) : BusAccess :=
  let off := BitVec.ofNat 8 w
  let v := BitVec.ofNat 32 (w / 2 ^ 8)
  if w / 2 ^ 40 % 2 = 1 then .read .word off else .write .word off v

/-- What the number of an opcode-table row stands for. The formats share numbers, and a row's number is given in whole
bytes: a number of more than a byte is a host command; of the others, the nonzero 4-bit numbers stand for selectors
and the rest for control bytes. The decoder itself knows the format (log entries 8 and 9). -/
def codeOfWord (nbits w : Nat) : Code :=
  if 8 < nbits then .bus (accessOfWord w)
  else if nbits ≤ 4 ∨ 0 < w % 256 ∧ w % 256 < 16 then .psel (BitVec.ofNat 4 w)
  else .c8 (BitVec.ofNat 8 w)

/-- The instruction the decoder reads from a word numbered as spec/opcode_table.json numbers it. -/
def decodeTableWord (nbits w : Nat) : Option Instr :=
  match decode (codeOfWord nbits w) with
  | .ok i => some i
  | .error _ => none

end Sys2Proof
end

