-- ==== Sys2Proof/Machine/State.lean ====
section
/-! DEFINITION. Everything the spec gives the machine, as plain data, and its reset value. -/

namespace Sys2Proof.Machine

/-- Contents of a space: (location, value) pairs at strictly rising locations (`Cells.wf`). A location that is not
listed has no value (R43, R144; log entry 2). -/
abbrev Cells (α : Type) := List (Nat × α)

/-- A space of bytes, a list of `Host.Cell`. -/
abbrev Memory := Cells Byte

/-- The four spaces whose unit is a byte (R33). -/
inductive ByteSpace where
  | spr | lt | bl | fb
deriving DecidableEq, Repr

/-- The content of the five address spaces (R33). -/
structure Spaces where
  /-- Sprite frames. -/
  spr : Memory
  /-- Light table bank. -/
  lt : Memory
  /-- Palette blend table. -/
  bl : Memory
  /-- Tile masks, by word index. -/
  msk : Cells MaskWord
  /-- The surface. -/
  fb : Memory
deriving DecidableEq, Repr

/-- The configuration registers (R20 to R26): the host writes them, the engine only reads them. -/
structure ConfigRegs where
  /-- `CTRL` (R21). -/
  ctrl : Reg32
  /-- `SRC_ADDR` (R22). -/
  srcAddr : Addr
  /-- `SRC_LEN` (R22). -/
  srcLen : Addr
  /-- `WIDTH` bits 15:0, `WIDTH_BITS` bits (R23). -/
  width : Pos
  /-- `DST_ADDR` (R24). -/
  dstAddr : Addr
  /-- `PITCH` (R24). -/
  pitch : Addr
  /-- `FB_LO` (R25). -/
  fbLo : Addr
  /-- `FB_HI` (R25). -/
  fbHi : Addr
  /-- `MASK_ADDR` bits 7:0, `log2(MSK_WORDS)` bits (R26). -/
  maskAddr : MaskIndex
deriving DecidableEq, Repr

/-- What `STATUS.CAUSE` can hold (R130). Codes 7 and 12 to 15 are never generated (U15). -/
inductive Cause where
  | none | cfgFmt | cfgMode | cfgLtsel | cfgWidth | cfgMask | cfgRange
  | streamReserved | streamOverrun | streamTrunc | maskRows
deriving DecidableEq, Repr

/-- The status and fault registers (R28 to R30). `STATUS.FAULT` is not stored (R122). -/
structure StatusRegs where
  /-- `STATUS.DONE`. -/
  done : Bool
  /-- `STATUS.CAUSE`. -/
  cause : Cause
  /-- `FAULT_PC` (R29). -/
  faultPc : Addr
  /-- `FAULT_ROW` (R29). -/
  faultRow : Addr
  /-- `FAULT_X` (R29). -/
  faultX : Reg32
  /-- `ROWS_DONE` (R30). -/
  rowsDone : Addr
deriving DecidableEq, Repr

/-- `RUN_KIND`: 0 literal, 1 skip (R14, R77). -/
inductive RunKind where
  | literal | skip
deriving DecidableEq, Repr

/-- The working registers of R14. Their values outside a draw are unspecified and unobservable (R15, R143;
log entries 1 and 13). -/
structure WorkRegs where
  /-- `SP`, the stream pointer (R16). -/
  sp : SPtr
  /-- `SEND`, the stream end. -/
  send : SPtr
  /-- `DROW`, FB address of pixel 0 of the row. -/
  drow : Addr
  /-- `R`, index of the row. -/
  r : Addr
  /-- `X`, pixels of the row already consumed. -/
  x : Pos
  /-- `MW`, mask word of the row. -/
  mw : MaskWord
  /-- `VIS`, the row passed the row-start bounds check. -/
  vis : Bool
  /-- `P0`, stipple phase. -/
  p0 : Bool
  /-- `RUN_KIND`. -/
  runKind : RunKind
  /-- `RUN_LEN`. -/
  runLen : Pos
  /-- `RUN_SRC`. -/
  runSrc : Addr
deriving DecidableEq, Repr

/-- Where the sequencer of R70 stands (log entry 3). -/
inductive Phase where
  /-- No draw in progress: the host acts (R51, R142). -/
  | idle
  /-- At the head of the outer loop: frame end or row start (R71, R72). -/
  | rowTop
  /-- Inside a row, between opcodes: the next opcode or the row end (R73, R74, R81). -/
  | opcode
  /-- Inside a literal run: the pixel procedure for pixel `pix` of it (R77, R110). -/
  | run
deriving DecidableEq, Repr

/-- What the host does to the machine between draws (R13, R34, R121 to R126; log entries 4 and 18). How the host
reaches a space, to load it and to read it back, is the platform's (R44); that there is no action by which it reads
one, what a space holds being seen in `State.mem`, is the model's choice (log entry 26). -/
inductive HostAction where
  /-- An access to the register window. -/
  | access (a : BusAccess)
  /-- Storing a byte into a space. -/
  | poke (sp : ByteSpace) (a : Addr) (v : Byte)
  /-- Storing a mask word into MSK. -/
  | pokeMask (i : MaskIndex) (w : MaskWord)
deriving DecidableEq, Repr

/-- The machine. -/
structure State where
  /-- Configuration registers. -/
  cfg : ConfigRegs
  /-- Status and fault registers. -/
  st : StatusRegs
  /-- Working registers. -/
  w : WorkRegs
  /-- The five spaces. -/
  mem : Spaces
  /-- The model's own: position in the control flow of R70 (log entry 3). -/
  phase : Phase
  /-- The model's own: the loop variable `i` of the run being performed (R78, R81; log entry 3). -/
  pix : Pos
  /-- The model's own: host actions not yet taken, oldest first (log entry 4). -/
  pending : List HostAction
  /-- The model's own: the value the last host register read returned (R122; log entry 5). -/
  rdData : Reg32
deriving DecidableEq, Repr

/-- Why the model stops. None of these is a fault of the machine: the machine's ten faults (R130) are next states
whose `STATUS.CAUSE` names them. -/
inductive Fault where
  /-- The engine read a byte that nothing has written since reset, which has no value (R43, R144). Raised by the
  control-byte fetch, `PIX_COPY`, `PIX_REMAP` and `PIX_BLEND0`. Safe: the machine goes on with an unspecified
  byte, and the model says nothing of it (log entry 2). -/
  | noValue (sp : ByteSpace) (a : Nat)
  /-- The engine fetched a mask word that nothing has written since reset (R43, R144). Raised by row start.
  Safe, for the same reason (log entries 2 and 12). -/
  | noMaskWord (i : Nat)
  /-- An access to an address of LT or BL that does not exist (R33, R47, R48). Raised by a host store; by
  `PIX_REMAP` only under a reserved `LTSEL`, which no draw has (R124). Safe (log entry 17). -/
  | absentAddress (sp : ByteSpace) (a : Nat)
  /-- A mask fetch beyond the MSK space (R33, R49). Raised by row start only under a `MASK_ADDR` that START
  refuses. Safe (log entry 17). -/
  | absentMaskWord (i : Nat)
deriving DecidableEq, Repr

/-- Why the model gives a step no meaning. -/
inductive Refusal where
  /-- An instruction without a meaning yet. Raised by `exec` alone; no arm is left with it. Safe. -/
  | notModelled (mnemonic : String)
  /-- The decoder rejects the code: a host access that is not of a whole register, which the spec has a model refuse
  (R31, U13), or a selector that is never formed (R65, R66). Raised by `step`. Safe (log entries 7 and 15). -/
  | undecodable (why : Reject)
deriving DecidableEq, Repr

/-- Reset (R142): every host-visible register zero, the engine idle, no location of any space holding a value (R144).
The working registers, which the spec leaves unspecified (R143), and the model's own fields are zero or empty
(log entries 1, 3, 4, 5). -/
def State.reset : State where
  cfg := { ctrl := 0, srcAddr := 0, srcLen := 0, width := 0, dstAddr := 0, pitch := 0, fbLo := 0, fbHi := 0, maskAddr := 0 }
  st := { done := false, cause := .none, faultPc := 0, faultRow := 0, faultX := 0, rowsDone := 0 }
  w := { sp := 0, send := 0, drow := 0, r := 0, x := 0, mw := 0, vis := false, p0 := false,
         runKind := .literal, runLen := 0, runSrc := 0 }
  mem := { spr := [], lt := [], bl := [], msk := [], fb := [] }
  phase := .idle
  pix := 0
  pending := []
  rdData := 0

end Sys2Proof.Machine
end

