-- ==== Sys2Proof/Machine/Operands.lean ====
section
/-! DEFINITION. Fields of the registers, effective addresses, and the functions that turn the row's state into a
pixel's selector (R21, R45 to R49, R66, R100 to R102, R107, R108). -/

namespace Sys2Proof.Machine

/-- The host-visible registers (R20). -/
inductive Reg where
  | ctrl | srcAddr | srcLen | width | dstAddr | pitch | fbLo | fbHi | maskAddr
  | start | status | faultPc | faultRow | faultX | rowsDone
deriving DecidableEq, Repr

/-- The register at a byte offset (R20); offsets `0x3C` and above are reserved (R31). -/
def Reg.ofOffset (off : BitVec 8) : Option Reg :=
  if off = 0x00#8 then some .ctrl
  else if off = 0x04#8 then some .srcAddr
  else if off = 0x08#8 then some .srcLen
  else if off = 0x0C#8 then some .width
  else if off = 0x10#8 then some .dstAddr
  else if off = 0x14#8 then some .pitch
  else if off = 0x18#8 then some .fbLo
  else if off = 0x1C#8 then some .fbHi
  else if off = 0x20#8 then some .maskAddr
  else if off = 0x24#8 then some .start
  else if off = 0x28#8 then some .status
  else if off = 0x2C#8 then some .faultPc
  else if off = 0x30#8 then some .faultRow
  else if off = 0x34#8 then some .faultX
  else if off = 0x38#8 then some .rowsDone
  else none

/-- The writable bits of `CTRL` (R21; V-R1). -/
def ctrlMask : Reg32 := 0x00001F1F#32

/-- `CTRL.FMT` (R21): 0 `OPAQUE`, 1 `RLE`, 2 and 3 reserved. -/
def ConfigRegs.fmt (c : ConfigRegs) : BitVec 2 := c.ctrl.extractLsb' 0 2

/-- `CTRL.MODE` (R21): 0 `NORMAL`, 1 `STIPPLED`, 2 `BLENDED`, 3 reserved. -/
def ConfigRegs.mode (c : ConfigRegs) : BitVec 2 := c.ctrl.extractLsb' 2 2

/-- `CTRL.MASK_EN` (R21). -/
def ConfigRegs.maskEn (c : ConfigRegs) : Bool := c.ctrl.getLsbD 4

/-- `CTRL.LTSEL` (R21). -/
def ConfigRegs.ltsel (c : ConfigRegs) : BitVec 5 := c.ctrl.extractLsb' 8 5

/-- `FMT = OPAQUE`. Every other value takes the `else` branch of R70, which `START` leaves to `RLE` alone. -/
def ConfigRegs.opaqueFmt (c : ConfigRegs) : Bool := c.fmt == 0#2

/-- `MODE = STIPPLED`. -/
def ConfigRegs.stippled (c : ConfigRegs) : Bool := c.mode == 1#2

/-- `MODE = BLENDED`. -/
def ConfigRegs.blended (c : ConfigRegs) : Bool := c.mode == 2#2

/-- `FB_LO <= a < FB_HI`, unsigned (R25, R107, R108). -/
def ConfigRegs.inFb (c : ConfigRegs) (a : Addr) : Bool := c.fbLo ≤ a && a < c.fbHi

/-- The SPR address `SP[AW-1:0]` (R16, R18, R45). -/
def WorkRegs.spAddr (w : WorkRegs) : Addr := w.sp.setWidth Config.AW

/-- Row position of the pixel being processed: `X + i` in a `LIT` (R78), `i` in a `RAWROW` (R81). -/
def State.pixPos (s : State) : Pos := if s.cfg.opaqueFmt then s.pix else s.w.x + s.pix

/-- FB effective address of row position `x`: `(DROW + x) mod 2^AW` (R46). -/
def State.fbAddr (s : State) (x : Pos) : Addr := s.w.drow + x.setWidth Config.AW

/-- FB effective address of the pixel being processed (R46, R110). -/
def State.pixAddr (s : State) : Addr := s.fbAddr s.pixPos

/-- SPR address of the payload byte of the pixel being processed: `RUN_SRC + i` (R45, R77). -/
def State.payloadAddr (s : State) : Addr := s.w.runSrc + s.pix.setWidth Config.AW

/-- LT effective address of entry `v` of table `sel` (R47). -/
def ltAddr (sel : BitVec 5) (v : Byte) : Nat := sel.toNat * Config.NPAL + v.toNat

/-- BL effective address of the entry for the pair (`i`, `j`) (R48). -/
def blAddr (i j : Byte) : Nat := i.toNat * Config.NPAL + j.toNat

/-- MSK effective address of the row's mask word (R49). -/
def State.maskIndex (s : State) : Nat := s.cfg.maskAddr.toNat + s.w.r.toNat

/-- `MBIT(x)` (R37, R100). A position beyond the mask word, which `START` excludes (R99), reads 0 (log entry 16). -/
def State.mbit (s : State) (x : Pos) : Bool := !s.cfg.maskEn || s.w.mw.getMsbD x.toNat

/-- `STIP(x)`: the checkerboard of R101. -/
def State.stip (s : State) (x : Pos) : Bool := !((s.w.p0 ^^ x.getLsbD 0) ^^ s.w.r.getLsbD 0)

/-- `EBIT(x)`, the effective bit (R102). -/
def State.ebit (s : State) (x : Pos) : Bool := s.mbit x && (!s.cfg.stippled || s.stip x)

/-- Light class of `LTSEL` (R66): 0 for level 0, 2 for level 15, 1 for a level or special table that is read. The
reserved values 20 to 31 have no class; `START` refuses them, and they are given the value 3 (log entry 15). -/
def lightClass (sel : BitVec 5) : BitVec 2 :=
  if sel = 0#5 then 0#2 else if sel = 15#5 then 2#2 else if sel < 20#5 then 1#2 else 3#2

/-- The selector `PSEL` of row position `x` (R66). -/
def State.psel (s : State) (x : Pos) : BitVec 4 :=
  pselOf (s.ebit x) s.cfg.blended (lightClass s.cfg.ltsel)

/-- The row-start bounds check (R107). -/
def State.rowVisible (s : State) : Bool := s.cfg.inFb s.w.drow

/-- The pixel survives clipping: its row is visible (R107) and its address is in the valid range (R108). -/
def State.pixVisible (s : State) : Bool := s.w.vis && s.cfg.inFb s.pixAddr

end Sys2Proof.Machine
end

