-- ==== Sys2Proof/Machine/Flags.lean ====
section
/-! DEFINITION. `STATUS` and the fault record: the engine's only flags (R19, R28, R29, R130). -/

namespace Sys2Proof.Machine

/-- The code latched in `STATUS.CAUSE` (R130). -/
def Cause.code : Cause → BitVec 4
  | .none => 0
  | .cfgFmt => 1
  | .cfgMode => 2
  | .cfgLtsel => 3
  | .cfgWidth => 4
  | .cfgMask => 5
  | .cfgRange => 6
  | .streamReserved => 8
  | .streamOverrun => 9
  | .streamTrunc => 10
  | .maskRows => 11

/-- `STATUS.FAULT`: 1 exactly when `CAUSE != 0` (R28, R122). -/
def StatusRegs.fault (t : StatusRegs) : Bool := t.cause != .none

/-- `STATUS` as the host reads it (R28): `CAUSE` in 7:4, `FAULT` in 1, `DONE` in 0. -/
def StatusRegs.word (t : StatusRegs) : Reg32 :=
  0#24 ++ t.cause.code ++ 0#2 ++ BitVec.ofBool t.fault ++ BitVec.ofBool t.done

/-- `FAULT_X`: the row position in 15:0, the control byte in 23:16, 31:24 zero (R29). -/
def faultXWord (c : Byte) (x : Pos) : Reg32 := 0#8 ++ c ++ x.setWidth 16

/-- `STATUS.DONE <- d`. -/
def State.setDone (s : State) (d : Bool) : State := { s with st := { s.st with done := d } }

/-- The latch of fault entry (R134): an earlier record is kept, the first fault wins (R28). -/
def State.latchFault (s : State) (c : Cause) (pc row : Addr) (fx : Reg32) : State :=
  if s.st.cause = .none then
    { s with st := { s.st with cause := c, faultPc := pc, faultRow := row, faultX := fx } }
  else s

/-- `STATUS.CAUSE`, `FAULT_PC`, `FAULT_ROW`, `FAULT_X <- 0` (R28, R126). -/
def State.clearRecord (s : State) : State :=
  { s with st := { s.st with cause := .none, faultPc := 0, faultRow := 0, faultX := 0 } }

end Sys2Proof.Machine
end

