-- ==== Sys2Proof/Machine/Ops.lean ====
section
/-! DEFINITION. The named operations: memory, registers, fault entry and its return, the start of a draw, runs. -/

namespace Sys2Proof.Machine

/-! ## Spaces -/

/-- The value at a location; `none` where nothing has been written (R43). -/
def Cells.read {α : Type} : Cells α → Nat → Option α
  | [], _ => none
  | (k, v) :: m, a => if a = k then some v else Cells.read m a

/-- Storing a value at a location, keeping the listing in rising order. -/
def Cells.write {α : Type} : Cells α → Nat → α → Cells α
  | [], a, v => [(a, v)]
  | (k, u) :: m, a, v =>
    if a < k then (a, v) :: (k, u) :: m
    else if a = k then (a, v) :: m
    else (k, u) :: Cells.write m a v

/-- Every location listed is at least `lo`, and they rise strictly. -/
def Cells.risesFrom {α : Type} : Nat → Cells α → Bool
  | _, [] => true
  | lo, (k, _) :: m => decide (lo ≤ k) && Cells.risesFrom (k + 1) m

/-- The canonical form: locations rise strictly. An unlisted location has no value, so no entry can equal it. -/
def Cells.wf {α : Type} (m : Cells α) : Bool := Cells.risesFrom 0 m

/-- The canonical form of a space of bytes. -/
abbrev Memory.wf (m : Memory) : Bool := Cells.wf m

/-- Every location listed is below `n`. -/
def Cells.below {α : Type} (n : Nat) : Cells α → Bool
  | [] => true
  | (k, _) :: m => decide (k < n) && Cells.below n m

/-- How many bytes a space has (R33). Which part of SPR and FB is backed by storage is the platform's (R44); that every
one of their `2^AW` addresses is, and keeps what is stored there, is the model's choice (log entry 25). -/
def ByteSpace.size : ByteSpace → Nat
  | .spr => 2 ^ Config.AW
  | .lt => Config.LT_BYTES
  | .bl => Config.BL_BYTES
  | .fb => 2 ^ Config.AW

/-- The content of a space of bytes. -/
def Spaces.get (m : Spaces) : ByteSpace → Memory
  | .spr => m.spr
  | .lt => m.lt
  | .bl => m.bl
  | .fb => m.fb

/-- Replacing the content of a space of bytes. -/
def Spaces.set (m : Spaces) (sp : ByteSpace) (c : Memory) : Spaces :=
  match sp with
  | .spr => { m with spr := c }
  | .lt => { m with lt := c }
  | .bl => { m with bl := c }
  | .fb => { m with fb := c }

/-- Going on with a value, or stopping where there is none. -/
def withValue {α : Type} (r : Except Fault α) (k : α → Host.Outcome State Fault Refusal) :
    Host.Outcome State Fault Refusal :=
  match r with
  | .ok v => k v
  | .error f => .fault f

/-- `MemRead(S, a, 1)` for a space of bytes (R8, R41, R43). -/
def Spaces.readByte (m : Spaces) (sp : ByteSpace) (a : Nat) : Except Fault Byte :=
  if a < sp.size then
    match (m.get sp).read a with
    | some v => .ok v
    | none => .error (.noValue sp a)
  else .error (.absentAddress sp a)

/-- `MemRead(MSK, i, 1)`: one whole mask word (R8, R49). -/
def Spaces.readMask (m : Spaces) (i : Nat) : Except Fault MaskWord :=
  if i < Config.MSK_WORDS then
    match m.msk.read i with
    | some v => .ok v
    | none => .error (.noMaskWord i)
  else .error (.absentMaskWord i)

/-- `FB[a] <- v`, the engine's only write to memory (R8, R34). -/
def State.writeFb (s : State) (a : Addr) (v : Byte) : State :=
  { s with mem := { s.mem with fb := s.mem.fb.write a.toNat v } }

/-- The host storing a byte (R34, R41; log entry 18). -/
def State.pokeByte (s : State) (sp : ByteSpace) (a : Addr) (v : Byte) : Host.Outcome State Fault Refusal :=
  if a.toNat < sp.size then .next { s with mem := s.mem.set sp ((s.mem.get sp).write a.toNat v) }
  else .fault (.absentAddress sp a.toNat)

/-- The host storing a mask word (R34, R41; log entry 18). -/
def State.pokeMaskWord (s : State) (i : MaskIndex) (w : MaskWord) : State :=
  { s with mem := { s.mem with msk := s.mem.msk.write i.toNat w } }

/-! ## The two table lookups -/

/-- `LT[sel * 256 + v]` (R47). -/
def Spaces.lookupLt (m : Spaces) (sel : BitVec 5) (v : Byte) : Except Fault Byte :=
  m.readByte .lt (ltAddr sel v)

/-- `LIGHT(sel, v)` (R87): levels 0 and 15 read no table. -/
def Spaces.light (m : Spaces) (sel : BitVec 5) (v : Byte) : Except Fault Byte :=
  if sel = 0#5 then .ok v else if sel = 15#5 then .ok 0#8 else m.lookupLt sel v

/-- `BLEND0(d)` (R88): the blend partner is the constant 0. -/
def Spaces.blend0 (m : Spaces) (d : Byte) : Except Fault Byte := m.readByte .bl (blAddr d 0#8)

/-- The payload byte of the pixel being processed, `SPR[RUN_SRC + i]` (R45, R77). -/
def State.payload (s : State) : Except Fault Byte := s.mem.readByte .spr s.payloadAddr.toNat

/-- The byte of the surface at the address of the pixel being processed. -/
def State.surface (s : State) : Except Fault Byte := s.mem.readByte .fb s.pixAddr.toNat

/-! ## Registers -/

/-- What a host read of a register returns (R122): reserved bits 0, `START` reads 0 (R27). -/
def State.readReg (s : State) : Reg → Reg32
  | .ctrl => s.cfg.ctrl &&& ctrlMask
  | .srcAddr => s.cfg.srcAddr.setWidth 32
  | .srcLen => s.cfg.srcLen.setWidth 32
  | .width => s.cfg.width.setWidth 32
  | .dstAddr => s.cfg.dstAddr.setWidth 32
  | .pitch => s.cfg.pitch.setWidth 32
  | .fbLo => s.cfg.fbLo.setWidth 32
  | .fbHi => s.cfg.fbHi.setWidth 32
  | .maskAddr => s.cfg.maskAddr.setWidth 32
  | .start => 0
  | .status => s.st.word
  | .faultPc => s.st.faultPc.setWidth 32
  | .faultRow => s.st.faultRow.setWidth 32
  | .faultX => s.st.faultX
  | .rowsDone => s.st.rowsDone.setWidth 32

/-- A host read at any offset (R31, R122): reserved offsets return 0. -/
def State.readOffset (s : State) (off : BitVec 8) : Reg32 :=
  match Reg.ofOffset off with
  | some q => s.readReg q
  | none => 0

/-- `REG <- value with reserved bits forced to 0` for a configuration register (R121); nothing for the others. -/
def ConfigRegs.write (c : ConfigRegs) (q : Reg) (v : Reg32) : ConfigRegs :=
  match q with
  | .ctrl => { c with ctrl := v &&& ctrlMask }
  | .srcAddr => { c with srcAddr := v.setWidth Config.AW }
  | .srcLen => { c with srcLen := v.setWidth Config.AW }
  | .width => { c with width := v.setWidth Config.WIDTH_BITS }
  | .dstAddr => { c with dstAddr := v.setWidth Config.AW }
  | .pitch => { c with pitch := v.setWidth Config.AW }
  | .fbLo => { c with fbLo := v.setWidth Config.AW }
  | .fbHi => { c with fbHi := v.setWidth Config.AW }
  | .maskAddr => { c with maskAddr := v.setWidth Config.MASK_ADDR_BITS }
  | .start | .status | .faultPc | .faultRow | .faultX | .rowsDone => c

/-- A host write to a register that has no effect beyond storing. -/
def State.writeReg (s : State) (q : Reg) (v : Reg32) : State := { s with cfg := s.cfg.write q v }

/-- What a register read returns to the host (R122; log entry 5). -/
def State.setRdData (s : State) (v : Reg32) : State := { s with rdData := v }

/-- The host action at the head of the queue has been taken. -/
def State.setPending (s : State) (q : List HostAction) : State := { s with pending := q }

/-! ## Taking a fault, and the return from one -/

/-- The draw is over: `STATUS.DONE <- 1` and control returns to the host (R71, R134). -/
def State.endDraw (s : State) : State := { s.setDone true with phase := .idle }

/-- Fault entry, `raise Fault(cause)` (R134): the record is latched unless an earlier one stands, `DONE` is set, the
draw ends. `SP`, `X`, `R` and the other working registers die with the draw. -/
def State.raise (s : State) (c : Cause) (pc row : Addr) (fx : Reg32) : State :=
  (s.latchFault c pc row fx).endDraw

/-- A configuration fault (R131): there is no stream position, the record is zero. -/
def State.raiseCfg (s : State) (c : Cause) : State := s.raise c 0 0 0

/-- A stream fault at `SP` in row `R` (R29, R132), with the row position and the control byte of the record. -/
def State.raiseStream (s : State) (c : Cause) (ctl : Byte) (x : Pos) : State :=
  s.raise c s.w.spAddr s.w.r (faultXWord ctl x)

/-- The status clear (R126), the only return from a fault (R136): nothing is resumed. -/
def State.statusClear (s : State) (v : Reg32) : State :=
  let s₁ := if v.getLsbD 0 then s.setDone false else s
  if v.getLsbD 1 then s₁.clearRecord else s₁

/-! ## Starting a draw -/

/-- `SEND` of a frame extent, in `AW + 1` bits (R125). -/
def ConfigRegs.extentEnd (c : ConfigRegs) : SPtr :=
  c.srcAddr.setWidth (Config.AW + 1) + c.srcLen.setWidth (Config.AW + 1)

/-- The start checks in their order (R124): the first that fails, `Cause.none` if none does. -/
def ConfigRegs.startCheck (c : ConfigRegs) : Cause :=
  if c.fmt = 2#2 ∨ c.fmt = 3#2 then .cfgFmt
  else if c.mode = 3#2 then .cfgMode
  else if 20#5 ≤ c.ltsel then .cfgLtsel
  else if c.width = 0 then .cfgWidth
  else if c.maskEn = true ∧ (Config.MASK_W < c.width.toNat ∨ Config.MSK_WORDS < c.maskAddr.toNat + Config.NMROWS) then
    .cfgMask
  else if 2 ^ Config.AW < c.extentEnd.toNat ∨ c.fbHi < c.fbLo then .cfgRange
  else .none

/-- Initialisation of the working registers (R125); the draw is at the head of the loop of R70. -/
def State.beginDraw (s : State) : State :=
  { s with
    w := { s.w with sp := s.cfg.srcAddr.setWidth (Config.AW + 1), send := s.cfg.extentEnd, drow := s.cfg.dstAddr,
                    r := 0, p0 := s.cfg.dstAddr.getLsbD 0 }
    phase := .rowTop }

/-- The first two lines of `START` (R123): `STATUS.DONE <- 0`, `ROWS_DONE <- 0`. -/
def State.clearForDraw (s : State) : State :=
  { s with st := { s.st with done := false, rowsDone := 0 } }

/-- A host write to `START` (R123): the start checks, then a refused draw or the head of the decoder loop. The loop's
steps follow before the host can act again (R51; log entry 3). -/
def State.startDraw (s : State) : State :=
  let s₀ := s.clearForDraw
  if s.cfg.startCheck = .none then s₀.beginDraw else s₀.raiseCfg s.cfg.startCheck

/-! ## Rows and runs -/

/-- Row start, its writes (R72): mask word, visibility, `X <- 0`. -/
def State.beginRow (s : State) (mw : MaskWord) : State :=
  { s with w := { s.w with mw := mw, vis := s.rowVisible, x := 0 }, phase := .opcode }

/-- Row end (R74). -/
def State.endRow (s : State) : State :=
  { s with
    st := { s.st with rowsDone := s.st.rowsDone + 1 }
    w := { s.w with r := s.w.r + 1, drow := s.w.drow - s.cfg.pitch }
    phase := .rowTop }

/-- The run record of a literal (R77), handed to the compositor; its pixels follow, the first being pixel 0. -/
def State.beginRun (s : State) (n : Pos) (src : Addr) : State :=
  { s with w := { s.w with runKind := .literal, runLen := n, runSrc := src }, phase := .run, pix := 0 }

/-- A skip run (R79): its record, and `X`, `SP` past it; it performs no pixel (R111). -/
def State.skipRun (s : State) (n : Pos) : State :=
  { s with w := { s.w with runKind := .skip, runLen := n, x := s.w.x + n, sp := s.w.sp + 1 } }

/-- The last two lines of `LIT` and of `RAWROW`, after their pixels: `X <- X + n; SP <- SP + 1 + n` (R78),
`X <- WIDTH; SP <- SP + WIDTH` (R81). -/
def State.endRun (s : State) : State :=
  if s.cfg.opaqueFmt then
    { s with
      w := { s.w with x := s.cfg.width, sp := s.w.sp + s.cfg.width.setWidth (Config.AW + 1) }
      phase := .opcode }
  else
    { s with
      w := { s.w with x := s.w.x + s.w.runLen, sp := s.w.sp + 1 + s.w.runLen.setWidth (Config.AW + 1) }
      phase := .opcode }

/-- The next pixel of the run, in ascending order (R77, R110); after the last the run ends. -/
def State.nextPixel (s : State) : State :=
  if s.pix + 1 = s.w.runLen then s.endRun else { s with pix := s.pix + 1 }

end Sys2Proof.Machine
end

