-- ==== Sys2Proof/Machine/Command.lean ====
section
/-! DEFINITION. The host commands: `START`, `STATUS_CLR`, `WR`, `RD` (R121 to R126). -/

namespace Sys2Proof.Machine

/-- `START` (R123): the written value is ignored. -/
def execStart (_v : Reg32) (s : State) : Host.Outcome State Fault Refusal :=
  .next s.startDraw

/-- `STATUS_CLR` (R126): write-one-to-clear. -/
def execStatusClr (v : Reg32) (s : State) : Host.Outcome State Fault Refusal :=
  .next (s.statusClear v)

/-- `WR` (R121), by the offset: a configuration register is stored, read-only and reserved offsets ignore the
write. (A write at `0x24` or `0x28` decodes to `START` or `STATUS_CLR`; the two cases stand here as R121 has them.) -/
def execWr (off : BitVec 8) (v : Reg32) (s : State) : Host.Outcome State Fault Refusal :=
  match Reg.ofOffset off with
  | some .start => .next s.startDraw
  | some .status => .next (s.statusClear v)
  | some q => .next (s.writeReg q v)
  | none => .next s

/-- `RD` (R122): the register's value goes to the host, no register changes. -/
def execRd (off : BitVec 8) (s : State) : Host.Outcome State Fault Refusal :=
  .next (s.setRdData (s.readOffset off))

end Sys2Proof.Machine
end

