-- ==== Sys2Proof/Machine/Pixel.lean ====
section
/-! DEFINITION. The pixel operations (R112 to R116), on the pixel that the working registers select: its FB address
is `State.pixAddr`, its source byte `State.payload`. The payload byte is read only where R39 counts it (R42). -/

namespace Sys2Proof.Machine

/-- `PIX_COPY(a, s)` (R112): `FB[a] <- s`. -/
def execPixCopy (_b : Bool) (s : State) : Host.Outcome State Fault Refusal :=
  withValue s.payload fun v => .next (s.writeFb s.pixAddr v)

/-- `PIX_REMAP(a, s)` (R114): `FB[a] <- LT[CTRL.LTSEL * 256 + s]`. -/
def execPixRemap (_b : Bool) (s : State) : Host.Outcome State Fault Refusal :=
  withValue s.payload fun v =>
    withValue (s.mem.lookupLt s.cfg.ltsel v) fun u => .next (s.writeFb s.pixAddr u)

/-- `PIX_FILL0(a)` (R113): `FB[a] <- 0x00`. -/
def execPixFill0 (_b : Bool) (s : State) : Host.Outcome State Fault Refusal :=
  .next (s.writeFb s.pixAddr 0x00#8)

/-- `PIX_BLEND0(a)` (R115): `d <- FB[a]; FB[a] <- BL[d * 256 + 0]`. -/
def execPixBlend0 (_lc : BitVec 2) (s : State) : Host.Outcome State Fault Refusal :=
  withValue s.surface fun d =>
    withValue (s.mem.blend0 d) fun u => .next (s.writeFb s.pixAddr u)

/-- `PIX_KEEP(a)` (R116): nothing. -/
def execPixKeep (_lc : BitVec 2) (s : State) : Host.Outcome State Fault Refusal :=
  .next s

end Sys2Proof.Machine
end

