-- ==== Sys2Proof/Machine/Stream.lean ====
section
/-! DEFINITION. The stream opcodes: `RSVD0`, `LIT`, `SKIP`, `RAWROW` (R78 to R82). -/

namespace Sys2Proof.Machine

/-- `RSVD0` (R80): always takes the fault `STREAM_RESERVED`. -/
def execRsvd0 (s : State) : Host.Outcome State Fault Refusal :=
  .next (s.raiseStream .streamReserved 0x00#8 s.w.x)

/-- `LIT` (R78): the two checks in the order of R82, then the run record. The run's pixels are the steps that follow,
in ascending order, and the last of them ends with `X <- X + n; SP <- SP + 1 + n` (`State.nextPixel`). -/
def execLit (m : BitVec 7) (s : State) : Host.Outcome State Fault Refusal :=
  let n := litLen m
  if s.cfg.width - s.w.x < n then
    .next (s.raiseStream .streamOverrun (controlByte false m) s.w.x)
  else if s.w.send - (s.w.sp + 1) < n.setWidth (Config.AW + 1) then
    .next (s.raiseStream .streamTrunc (controlByte false m) s.w.x)
  else .next (s.beginRun n ((s.w.sp + 1).setWidth Config.AW))

/-- `SKIP` (R79, R111). -/
def execSkip (m : BitVec 7) (s : State) : Host.Outcome State Fault Refusal :=
  let n := skipLen m
  if s.cfg.width - s.w.x < n then
    .next (s.raiseStream .streamOverrun (controlByte true m) s.w.x)
  else .next (s.skipRun n)

/-- `RAWROW` (R81): a partial last row faults, with row position and control byte 0 in the record (R132); otherwise
the row is one literal run of `WIDTH` pixels, whose last pixel ends with `X <- WIDTH; SP <- SP + WIDTH`. -/
def execRawrow (s : State) : Host.Outcome State Fault Refusal :=
  if s.w.send - s.w.sp < s.cfg.width.setWidth (Config.AW + 1) then
    .next (s.raiseStream .streamTrunc 0#8 0)
  else .next (s.beginRun s.cfg.width s.w.spAddr)

end Sys2Proof.Machine
end

