-- ==== Sys2Proof/Machine/Dispatch.lean ====
section
/-! DEFINITION. One arm per instruction. -/

namespace Sys2Proof.Machine

def exec (i : Instr) (s : State) : Host.Outcome State Fault Refusal :=
  match i with
  | .rsvd0 => Sys2Proof.Machine.execRsvd0 s
  | .lit m => Sys2Proof.Machine.execLit m s
  | .skip m => Sys2Proof.Machine.execSkip m s
  | .rawrow => Sys2Proof.Machine.execRawrow s
  | .pixCopy b => Sys2Proof.Machine.execPixCopy b s
  | .pixRemap b => Sys2Proof.Machine.execPixRemap b s
  | .pixFill0 b => Sys2Proof.Machine.execPixFill0 b s
  | .pixBlend0 lc => Sys2Proof.Machine.execPixBlend0 lc s
  | .pixKeep lc => Sys2Proof.Machine.execPixKeep lc s
  | .start v => Sys2Proof.Machine.execStart v s
  | .statusClr v => Sys2Proof.Machine.execStatusClr v s
  | .wr off v => Sys2Proof.Machine.execWr off v s
  | .rd off => Sys2Proof.Machine.execRd off s

end Sys2Proof.Machine
end

