-- ==== Sys2Proof/Machine/Sequencer.lean ====
section
/-! DEFINITION. The sequencer: which action comes next (R70), how an instruction is fetched, what follows it, and
how the model places an instruction where the next step fetches it. -/

namespace Sys2Proof.Machine

/-- What the next step is. -/
inductive Fetched where
  /-- An instruction: its code, and the state it runs in. -/
  | code (c : Code) (s : State)
  /-- An action of the sequencer or of the host that is no instruction, with its outcome. -/
  | act (o : Host.Outcome State Fault Refusal)

/-- The host's turn: its oldest action, or nothing to do (R142: an idle engine does nothing). -/
def fetchHost (s : State) : Fetched :=
  match s.pending with
  | [] => .act (.next s)
  | .access a :: q => .code (.bus a) (s.setPending q)
  | .poke sp a v :: q => .act ((s.setPending q).pokeByte sp a v)
  | .pokeMask i w :: q => .act (.next ((s.setPending q).pokeMaskWord i w))

/-- Row start (R72): the row limit of a mask array (R98), then the mask word (R97), visibility and `X`. -/
def rowStart (s : State) : Host.Outcome State Fault Refusal :=
  if s.cfg.maskEn then
    if Config.NMROWS ≤ s.w.r.toNat then .next (s.raiseStream .maskRows 0#8 0)
    else withValue (s.mem.readMask s.maskIndex) fun mw => .next (s.beginRow mw)
  else .next (s.beginRow (BitVec.allOnes Config.MASK_W))

/-- The head of the loop of R70: frame end (R71) or row start. The end test comes first (R133). -/
def loopHead (s : State) : Host.Outcome State Fault Refusal :=
  if s.w.sp = s.w.send then .next s.endDraw else rowStart s

/-- The control-byte fetch (R73): a frame extent that ends inside a row faults without reading anything. -/
def fetchControl (s : State) : Fetched :=
  if s.w.sp = s.w.send then .act (.next (s.raiseStream .streamTrunc 0#8 s.w.x))
  else
    match s.mem.readByte .spr s.w.spAddr.toNat with
    | .ok c => .code (.c8 c) s
    | .error f => .act (.fault f)

/-- Inside a row (R70): the next opcode while `X < WIDTH`, then the row end (R74). -/
def fetchOpcode (s : State) : Fetched :=
  if s.w.x < s.cfg.width then
    if s.cfg.opaqueFmt then .code .raw s else fetchControl s
  else .act (.next s.endRow)

/-- Inside a literal run, the pixel procedure (R110): a clipped pixel is passed over, silently; any other has the
operation its selector names (R66). -/
def fetchPixel (s : State) : Fetched :=
  if s.pixVisible then .code (.psel (s.psel s.pixPos)) s else .act (.next s.nextPixel)

/-- What the next step is, by the phase. The host acts only between draws (R51, R54, R123). -/
def fetch (s : State) : Fetched :=
  match s.phase with
  | .idle => fetchHost s
  | .rowTop => .act (loopHead s)
  | .opcode => fetchOpcode s
  | .run => fetchPixel s

/-- What follows an instruction: after a pixel operation the next pixel of the run (R77), after any other nothing. -/
def retire (p : Phase) (o : Host.Outcome State Fault Refusal) : Host.Outcome State Fault Refusal :=
  match o with
  | .next t => if p = .run then .next t.nextPixel else .next t
  | .fault f => .fault f
  | .refused r => .refused r

/-! ## Placing an instruction (log entry 10) -/

/-- The next host action is the access `a`. -/
def State.placeAccess (s : State) (a : BusAccess) : State :=
  { s with phase := .idle, pending := .access a :: s.pending }

/-- `n` bytes of zero in a space from location `a` on. -/
def zeroBytes (m : Memory) (a : Nat) : Nat → Memory
  | 0 => m
  | n + 1 => zeroBytes (m.write a 0#8) (a + 1) n

/-- A draw under `FMT = RLE` stands between opcodes, at the start of a row of 128 pixels, with the control byte `c`
at `SP = 0` and the 127 zero bytes of the longest payload after it. -/
def State.placeControl (s : State) (c : Byte) : State :=
  { s with
    cfg := { s.cfg with ctrl := (s.cfg.ctrl &&& ~~~3#32) ||| 1#32, width := 128 }
    w := { s.w with sp := 0, send := 128, x := 0 }
    mem := { s.mem with spr := zeroBytes (s.mem.spr.write 0 c) 1 127 }
    phase := .opcode }

/-- A draw under `FMT = OPAQUE` stands at the start of a row of one zero pixel. -/
def State.placeRaw (s : State) : State :=
  { s with
    cfg := { s.cfg with ctrl := s.cfg.ctrl &&& ~~~3#32, width := 1 }
    w := { s.w with sp := 0, send := 1, x := 0 }
    mem := { s.mem with spr := s.mem.spr.write 0 0#8 }
    phase := .opcode }

/-- A byte of zero where a space has no value yet. -/
def Spaces.orZero (m : Spaces) (sp : ByteSpace) (a : Nat) : Spaces :=
  match (m.get sp).read a with
  | some _ => m
  | none => m.set sp ((m.get sp).write a 0#8)

/-- The byte at a location, 0 where it has no value. -/
def Spaces.byteOr0 (m : Spaces) (sp : ByteSpace) (a : Nat) : Byte := ((m.get sp).read a).getD 0#8

/-- The operand bytes of a pixel at SPR 0 and FB 0 under light table 1: zero where nothing has been written. -/
def Spaces.pixelOperands (m : Spaces) : Spaces :=
  let m₁ := (m.orZero .spr 0).orZero .fb 0
  (m₁.orZero .lt (ltAddr 1#5 (m₁.byteOr0 .spr 0))).orZero .bl (blAddr (m₁.byteOr0 .fb 0) 0#8)

/-- A light select of class `lc` (R66). -/
def ltselOfClass (lc : BitVec 2) : BitVec 5 :=
  if lc = 0#2 then 0#5 else if lc = 1#2 then 1#5 else if lc = 2#2 then 15#5 else 20#5

/-- A draw stands at the only pixel of a literal run, at FB address 0 of a surface of one byte, with the mask bit,
mode and light select that form the selector `p`. -/
def State.placeSelector (s : State) (p : BitVec 4) : State :=
  { s with
    cfg := { s.cfg with
             ctrl := 0#19 ++ ltselOfClass (p.extractLsb' 0 2) ++ 1#4 ++ BitVec.ofBool (p.getLsbD 2) ++ 1#3
             fbLo := 0, fbHi := 1 }
    w := { s.w with drow := 0, x := 0, mw := if p.getLsbD 3 then BitVec.allOnes Config.MASK_W else 0,
                    vis := true, runKind := .literal, runLen := 1, runSrc := 0 }
    mem := s.mem.pixelOperands
    pix := 0
    phase := .run }

/-- The state in which the next step fetches the code `c`. -/
def State.place (s : State) (c : Code) : State :=
  match c with
  | .c8 b => s.placeControl b
  | .raw => s.placeRaw
  | .psel p => s.placeSelector p
  | .bus a => s.placeAccess a

end Sys2Proof.Machine
end

