-- ==== Sys2Proof/Machine/Step.lean ====
section
/-! DEFINITION. One step: fetch, decode, execute. -/

namespace Sys2Proof.Machine

/-- One step of the machine: an action of the sequencer or the host, or one instruction and what follows it. -/
def step (s : State) : Host.Outcome State Fault Refusal :=
  match fetch s with
  | .act o => o
  | .code c s' =>
    match decode c with
    | .ok i => retire s.phase (exec i s')
    | .error r => .refused (.undecodable r)

/-- The state whose next step fetches and runs the instruction numbered `w` (log entries 8, 9, 10). -/
def State.withFetchWord (s : State) (nbits w : Nat) : State := s.place (codeOfWord nbits w)

end Sys2Proof.Machine
end

