-- ==== Sys2Proof/Safety.lean ====
section
/-! DEFINITION. What claims about runs speak of: the form of the spaces, the states a draw goes through, and how much
of a draw is left. -/

namespace Sys2Proof.Machine

/-- Every space is in canonical form and lists only locations it has (R33). -/
structure Spaces.Canonical (m : Spaces) : Prop where
  spr_wf : m.spr.wf = true
  lt_wf : m.lt.wf = true
  bl_wf : m.bl.wf = true
  msk_wf : m.msk.wf = true
  fb_wf : m.fb.wf = true
  spr_below : m.spr.below ByteSpace.spr.size = true
  lt_below : m.lt.below ByteSpace.lt.size = true
  bl_below : m.bl.below ByteSpace.bl.size = true
  msk_below : m.msk.below Config.MSK_WORDS = true
  fb_below : m.fb.below ByteSpace.fb.size = true

/-- Reserved bits of `CTRL` read 0 (R21). -/
def ConfigRegs.ReservedZero (c : ConfigRegs) : Prop := c.ctrl &&& ctrlMask = c.ctrl

/-- The fault record is zero when no fault is latched (R29, R126, R142). -/
structure StatusRegs.RecordMatches (t : StatusRegs) : Prop where
  pc : t.cause = .none → t.faultPc = 0
  row : t.cause = .none → t.faultRow = 0
  x : t.cause = .none → t.faultX = 0

/-- What holds throughout a draw: the start checks passed (R124), `DONE` is clear (R123), the stream pointer is in
the frame extent (R16, R18), and `P0`, `ROWS_DONE`, `DROW`, `R` are what R125, R30, R46, R98 say. -/
structure State.InDraw (s : State) : Prop where
  checked : s.cfg.startCheck = .none
  notDone : s.st.done = false
  send_eq : s.w.send = s.cfg.extentEnd
  sp_low : s.cfg.srcAddr.toNat ≤ s.w.sp.toNat
  sp_high : s.w.sp.toNat ≤ s.w.send.toNat
  phase_bit : s.w.p0 = s.cfg.dstAddr.getLsbD 0
  rows : s.st.rowsDone = s.w.r
  drow_eq : s.w.drow = s.cfg.dstAddr - s.w.r * s.cfg.pitch
  rowLimit : s.cfg.maskEn = true → s.w.r.toNat ≤ Config.NMROWS

/-- What holds inside a row (R72, R74, R97, R98). -/
structure State.InRow (s : State) : Prop where
  x_le : s.w.x.toNat ≤ s.cfg.width.toNat
  vis_eq : s.w.vis = s.rowVisible
  rowLimit : s.cfg.maskEn = true → s.w.r.toNat < Config.NMROWS
  noMask : s.cfg.maskEn = false → s.w.mw = BitVec.allOnes Config.MASK_W
  wholeRow : s.cfg.opaqueFmt = true → s.w.x = 0 ∨ s.w.x = s.cfg.width

/-- Encoded length in bytes of the literal run being performed (R63). -/
def State.runBytes (s : State) : Nat :=
  if s.cfg.opaqueFmt then s.w.runLen.toNat else 1 + s.w.runLen.toNat

/-- What holds inside a literal run: its record (R77), and the checks it passed (R78, R81). -/
structure State.InRun (s : State) : Prop where
  kind : s.w.runKind = .literal
  pix_lt : s.pix.toNat < s.w.runLen.toNat
  fits : s.w.x.toNat + s.w.runLen.toNat ≤ s.cfg.width.toNat
  bytes : s.w.sp.toNat + s.runBytes ≤ s.w.send.toNat
  src_lit : s.cfg.opaqueFmt = false → s.w.runSrc = (s.w.sp + 1).setWidth Config.AW
  src_raw : s.cfg.opaqueFmt = true → s.w.runSrc = s.w.spAddr ∧ s.w.x = 0 ∧ s.w.runLen = s.cfg.width

/-- The states the machine can be in. -/
structure State.Inv (s : State) : Prop where
  spaces : s.mem.Canonical
  reserved : s.cfg.ReservedZero
  record : s.st.RecordMatches
  draw : s.phase ≠ .idle → s.InDraw
  row : s.phase = .opcode ∨ s.phase = .run → s.InRow
  run : s.phase = .run → s.InRun

/-- Bytes of the frame extent not yet consumed. -/
def State.bytesLeft (s : State) : Nat := s.w.send.toNat - s.w.sp.toNat

/-- An upper bound on the steps a draw still takes (R76). -/
def State.drawMeasure (s : State) : Nat :=
  match s.phase with
  | .idle => 0
  | .rowTop => 4 * s.bytesLeft + 2
  | .opcode => if s.w.x < s.cfg.width then 4 * s.bytesLeft + 1 else 4 * s.bytesLeft + 3
  | .run => 4 * (s.bytesLeft - s.runBytes) + 3 + (s.w.runLen.toNat - s.pix.toNat)

/-- `k` steps, stopping at the first fault or refusal. -/
def steps : Nat → State → Host.Outcome State Fault Refusal
  | 0, s => .next s
  | k + 1, s =>
    match step s with
    | .next t => steps k t
    | .fault f => .fault f
    | .refused r => .refused r

/-- The draw is over and its outcome is in `STATUS` (R71, R134). -/
def State.DrawOver (s : State) : Prop := s.phase = .idle ∧ s.st.done = true

/-- Fault entry (R134): `t` is `s` after `raise Fault(c)` with the record
(`pc`, `row`, `fx`). The record is latched when none stands and kept otherwise, `DONE` is set, the draw ends, and
nothing else changes. -/
structure FaultEntry (s t : State) (c : Cause) (pc row : Addr) (fx : Reg32) : Prop where
  ended : t.phase = .idle
  done : t.st.done = true
  latched : s.st.cause = .none →
    t.st.cause = c ∧ t.st.faultPc = pc ∧ t.st.faultRow = row ∧ t.st.faultX = fx
  kept : s.st.cause ≠ .none →
    t.st.cause = s.st.cause ∧ t.st.faultPc = s.st.faultPc ∧ t.st.faultRow = s.st.faultRow ∧ t.st.faultX = s.st.faultX
  rowsDone : t.st.rowsDone = s.st.rowsDone
  cfg : t.cfg = s.cfg
  work : t.w = s.w
  mem : t.mem = s.mem
  pix : t.pix = s.pix
  pending : t.pending = s.pending
  rdData : t.rdData = s.rdData

/-- `t` differs from `s` in no register and no memory, the working registers and the position in the draw apart. -/
structure OnlyWorkChanges (s t : State) : Prop where
  cfg : t.cfg = s.cfg
  st : t.st = s.st
  mem : t.mem = s.mem
  pending : t.pending = s.pending
  rdData : t.rdData = s.rdData

/-- `t` differs from `s` in the surface alone, and there at address `a` alone, which now holds `v`. -/
structure StoresByte (s t : State) (a : Addr) (v : Byte) : Prop where
  stored : t.mem.fb.read a.toNat = some v
  others : ∀ b : Nat, b ≠ a.toNat → t.mem.fb.read b = s.mem.fb.read b
  spr : t.mem.spr = s.mem.spr
  lt : t.mem.lt = s.mem.lt
  bl : t.mem.bl = s.mem.bl
  msk : t.mem.msk = s.mem.msk
  cfg : t.cfg = s.cfg
  st : t.st = s.st
  work : t.w = s.w
  phase : t.phase = s.phase
  pix : t.pix = s.pix
  pending : t.pending = s.pending
  rdData : t.rdData = s.rdData

/-- The same machine with other contents of its spaces. -/
def State.withMem (s : State) (m : Spaces) : State := { s with mem := m }

/-- The same machine with another content of SPR. -/
def State.withSpr (s : State) (m : Memory) : State := s.withMem { s.mem with spr := m }

/-- The same machine with another content of LT. -/
def State.withLt (s : State) (m : Memory) : State := s.withMem { s.mem with lt := m }

/-- The same machine with another content of BL. -/
def State.withBl (s : State) (m : Memory) : State := s.withMem { s.mem with bl := m }

/-- An outcome with its state, if there is one, changed. -/
def mapNext (f : State → State) : Host.Outcome State Fault Refusal → Host.Outcome State Fault Refusal
  | .next s => .next (f s)
  | .fault r => .fault r
  | .refused r => .refused r

end Sys2Proof.Machine
end

