-- ==== Sys2Proof/Certificates/Slice0/Obligations.lean ====
section
/-! DEFINITION. The statements for the provers. -/

open Sys2Proof Sys2Proof.Machine

/-! ## Encodings -/

/-- Decode and encode agree for every instruction, with every operand at every value its encoding admits. -/
def Obligations.DecodeOfEncodeIsIdentity : Prop :=
  ∀ i : Instr, i.wellFormed = true → decode (encode i) = .ok i

/-- Whatever the decoder accepts is well formed, and encodes to the code it was decoded from: no bit is dropped. -/
def Obligations.EncodeOfDecodeIsIdentity : Prop :=
  ∀ (c : Code) (i : Instr), decode c = .ok i → i.wellFormed = true ∧ encode i = c

/-- R60: run kind and run length of every control byte. -/
def Obligations.ControlByteGivesKindAndLength : Prop :=
  ∀ c : Byte,
    (c.toNat = 0 → decodeC8 c = .rsvd0) ∧
    (0 < c.toNat ∧ c.toNat < 128 → ∃ m, decodeC8 c = .lit m ∧ (litLen m).toNat = c.toNat) ∧
    (128 ≤ c.toNat → ∃ m, decodeC8 c = .skip m ∧ (skipLen m).toNat = 256 - c.toNat)

/-- R66: the selector of a pixel, formed from the effective bit, the mode and the light select, names the operation of
the table, for every light select that has a class. -/
def Obligations.SelectorNamesPixelOperation : Prop :=
  ∀ (s : State) (x : Pos), s.cfg.ltsel.toNat < 20 →
    (s.ebit x = true → s.cfg.ltsel.toNat = 0 →
      decode (.psel (s.psel x)) = .ok (.pixCopy (s.cfg.mode == 2#2))) ∧
    (s.ebit x = true → s.cfg.ltsel.toNat = 15 →
      decode (.psel (s.psel x)) = .ok (.pixFill0 (s.cfg.mode == 2#2))) ∧
    (s.ebit x = true → s.cfg.ltsel.toNat ≠ 0 → s.cfg.ltsel.toNat ≠ 15 →
      decode (.psel (s.psel x)) = .ok (.pixRemap (s.cfg.mode == 2#2))) ∧
    (s.ebit x = false → s.cfg.mode = 2#2 → ∃ lc, decode (.psel (s.psel x)) = .ok (.pixBlend0 lc)) ∧
    (s.ebit x = false → s.cfg.mode ≠ 2#2 → ∃ lc, decode (.psel (s.psel x)) = .ok (.pixKeep lc))

/-- A few codes written out from the spec's tables. -/
def Obligations.EncodingsOfEachFormatDecode : Prop :=
  decode (.c8 0b00000000#8) = .ok .rsvd0 ∧ decode (.c8 0b01111111#8) = .ok (.lit 127#7) ∧
  decode (.c8 0b10000000#8) = .ok (.skip 0#7) ∧ decode (.c8 0b11111011#8) = .ok (.skip 123#7) ∧
  decode .raw = .ok .rawrow ∧ decode (.psel 0b1101#4) = .ok (.pixRemap true) ∧
  decode (.psel 0b0110#4) = .ok (.pixBlend0 2#2) ∧
  decode (.bus (.write .word 0x24#8 1#32)) = .ok (.start 1#32) ∧
  decode (.bus (.write .word 0x28#8 3#32)) = .ok (.statusClr 3#32) ∧
  decode (.bus (.read .word 0x38#8)) = .ok (.rd 0x38#8)

/-- R31: an access that is not of a whole register is refused. That an access at an offset which is no multiple of 4 is
one of them is the model's reading (log entry 7). -/
def Obligations.NarrowHostAccessRefused : Prop :=
  ∀ (s : State) (a : BusAccess) (q : List HostAction), s.phase = .idle → s.pending = .access a :: q →
    (∀ off, a = .read .byte off ∨ a = .read .half off → step s = .refused (.undecodable .narrowAccess)) ∧
    (∀ off v, a = .write .byte off v ∨ a = .write .half off v → step s = .refused (.undecodable .narrowAccess)) ∧
    (∀ off, a = .read .word off → off.toNat % 4 ≠ 0 → step s = .refused (.undecodable .unalignedAccess)) ∧
    (∀ off v, a = .write .word off v → off.toNat % 4 ≠ 0 → step s = .refused (.undecodable .unalignedAccess))

/-! ## Reset -/

/-- R142: every host-visible register is zero after reset, which a host reads at every offset, and the engine is idle.
That an idle engine, after reset or later, with no host action in its queue does nothing is the last clause: the queue
and the idle step are the model's choice (log entry 4). -/
def Obligations.ResetRegistersAreZero : Prop :=
  (State.reset.cfg.ctrl = 0 ∧ State.reset.cfg.srcAddr = 0 ∧ State.reset.cfg.srcLen = 0 ∧ State.reset.cfg.width = 0 ∧
    State.reset.cfg.dstAddr = 0 ∧ State.reset.cfg.pitch = 0 ∧ State.reset.cfg.fbLo = 0 ∧ State.reset.cfg.fbHi = 0 ∧
    State.reset.cfg.maskAddr = 0) ∧
  (State.reset.st.done = false ∧ State.reset.st.cause = .none ∧ State.reset.st.faultPc = 0 ∧
    State.reset.st.faultRow = 0 ∧ State.reset.st.faultX = 0 ∧ State.reset.st.rowsDone = 0) ∧
  (∀ off, State.reset.readOffset off = 0) ∧
  State.reset.phase = .idle ∧
  ∀ s : State, s.phase = .idle → s.pending = [] → step s = .next s

/-- R144: no location of any space has a value after reset, and the engine's read of one is a fault of the model. -/
def Obligations.ResetSpacesHoldNoValue : Prop :=
  (∀ sp a, a < sp.size → State.reset.mem.readByte sp a = .error (.noValue sp a)) ∧
  ∀ i, i < 256 → State.reset.mem.readMask i = .error (.noMaskWord i)

/-- The state after reset meets the invariant (the working registers' values there are the model's choice, log entry 1;
the invariant does not speak of them). -/
def Obligations.ResetMeetsInvariant : Prop := State.reset.Inv

/-! ## Host commands -/

/-- R122: what a register read returns, at every offset, and that no register changes. (That the value goes to the
host through the field `rdData` is the model's choice, log entry 5.) -/
def Obligations.RegisterReadReturnsValue : Prop :=
  ∀ (s : State) (off : BitVec 8), ∃ v : Reg32, exec (.rd off) s = .next { s with rdData := v } ∧
    (off = 0x00#8 → v = s.cfg.ctrl &&& 0x1F1F#32) ∧ (off = 0x04#8 → v = s.cfg.srcAddr) ∧
    (off = 0x08#8 → v = s.cfg.srcLen) ∧ (off = 0x0C#8 → v.toNat = s.cfg.width.toNat) ∧
    (off = 0x10#8 → v = s.cfg.dstAddr) ∧ (off = 0x14#8 → v = s.cfg.pitch) ∧
    (off = 0x18#8 → v = s.cfg.fbLo) ∧ (off = 0x1C#8 → v = s.cfg.fbHi) ∧
    (off = 0x20#8 → v.toNat = s.cfg.maskAddr.toNat) ∧ (off = 0x24#8 → v = 0) ∧
    (off = 0x28#8 → v.toNat =
      s.st.cause.code.toNat * 16 + (if s.st.cause = .none then 0 else 2) + (if s.st.done then 1 else 0)) ∧
    (off = 0x2C#8 → v = s.st.faultPc) ∧
    (off = 0x30#8 → v = s.st.faultRow) ∧ (off = 0x34#8 → v = s.st.faultX) ∧
    (off = 0x38#8 → v = s.st.rowsDone) ∧ (0x3C ≤ off.toNat → v = 0)

/-- R28: the fields of `STATUS` as read, and the cause codes of R130. -/
def Obligations.StatusWordFields : Prop :=
  (∀ t : StatusRegs,
    t.word.toNat = t.cause.code.toNat * 16 + (if t.cause = .none then 0 else 2) + (if t.done then 1 else 0) ∧
    (t.cause.code = 0 ↔ t.cause = .none)) ∧
  [Cause.none, .cfgFmt, .cfgMode, .cfgLtsel, .cfgWidth, .cfgMask, .cfgRange, .streamReserved, .streamOverrun,
    .streamTrunc, .maskRows].map (·.code.toNat) = [0, 1, 2, 3, 4, 5, 6, 8, 9, 10, 11]

/-- R121: a register write, by its offset. Offsets below `0x3C` that are no register boundary are rejected by the
decoder before. -/
def Obligations.RegisterWriteStores : Prop :=
  ∀ (s : State) (v : Reg32),
    exec (.wr 0x00#8 v) s = .next { s with cfg := { s.cfg with ctrl := v &&& 0x1F1F#32 } } ∧
    exec (.wr 0x04#8 v) s = .next { s with cfg := { s.cfg with srcAddr := v } } ∧
    exec (.wr 0x08#8 v) s = .next { s with cfg := { s.cfg with srcLen := v } } ∧
    exec (.wr 0x0C#8 v) s = .next { s with cfg := { s.cfg with width := BitVec.ofNat 16 (v.toNat % 65536) } } ∧
    exec (.wr 0x10#8 v) s = .next { s with cfg := { s.cfg with dstAddr := v } } ∧
    exec (.wr 0x14#8 v) s = .next { s with cfg := { s.cfg with pitch := v } } ∧
    exec (.wr 0x18#8 v) s = .next { s with cfg := { s.cfg with fbLo := v } } ∧
    exec (.wr 0x1C#8 v) s = .next { s with cfg := { s.cfg with fbHi := v } } ∧
    exec (.wr 0x20#8 v) s = .next { s with cfg := { s.cfg with maskAddr := BitVec.ofNat 8 (v.toNat % 256) } } ∧
    exec (.wr 0x24#8 v) s = exec (.start v) s ∧
    exec (.wr 0x28#8 v) s = exec (.statusClr v) s ∧
    exec (.wr 0x2C#8 v) s = .next s ∧ exec (.wr 0x30#8 v) s = .next s ∧
    exec (.wr 0x34#8 v) s = .next s ∧ exec (.wr 0x38#8 v) s = .next s ∧
    ∀ off : BitVec 8, 0x3C ≤ off.toNat → exec (.wr off v) s = .next s

/-- What a host writes to a configuration register it reads back, reserved bits 0 (R20, R21, R23, R26, R121, R122). -/
def Obligations.WrittenRegisterReadsBack : Prop :=
  ∀ (s t : State) (off : BitVec 8) (v : Reg32), off.toNat ≤ 0x20 → off.toNat % 4 = 0 →
    exec (.wr off v) s = .next t →
    exec (.rd off) t = .next { t with rdData := v &&&
      (if off = 0x00#8 then 0x1F1F#32 else if off = 0x0C#8 then 0xFFFF#32 else if off = 0x20#8 then 0xFF#32
       else 0xFFFFFFFF#32) }

/-- R126: the status clear. -/
def Obligations.StatusClearClearsWhatIsAsked : Prop :=
  ∀ (s : State) (v : Reg32), ∃ t, exec (.statusClr v) s = .next t ∧
    (v.getLsbD 0 = true → t.st.done = false) ∧ (v.getLsbD 0 = false → t.st.done = s.st.done) ∧
    (v.getLsbD 1 = true → t.st.cause = .none ∧ t.st.faultPc = 0 ∧ t.st.faultRow = 0 ∧ t.st.faultX = 0) ∧
    (v.getLsbD 1 = false → t.st.cause = s.st.cause ∧ t.st.faultPc = s.st.faultPc ∧ t.st.faultRow = s.st.faultRow ∧
      t.st.faultX = s.st.faultX) ∧
    t.st.rowsDone = s.st.rowsDone ∧
    t.cfg = s.cfg ∧ t.w = s.w ∧ t.mem = s.mem ∧ t.phase = s.phase ∧ t.pix = s.pix ∧ t.pending = s.pending ∧
    t.rdData = s.rdData

/-- R131, with the checks of R124 in their order: a configuration that fails a check is refused with the lowest code,
a zero record, `ROWS_DONE = 0`, and no memory accessed. -/
def Obligations.StartRefusesBadConfiguration : Prop :=
  ∀ (s : State) (v : Reg32),
    let fmtBad := s.cfg.fmt = 2#2 ∨ s.cfg.fmt = 3#2
    let modeBad := s.cfg.mode = 3#2
    let ltselBad := 20 ≤ s.cfg.ltsel.toNat
    let widthBad := s.cfg.width.toNat = 0
    let maskBad := s.cfg.maskEn = true ∧ (64 < s.cfg.width.toNat ∨ 256 < s.cfg.maskAddr.toNat + 32)
    let rangeBad := 2 ^ 32 < s.cfg.srcAddr.toNat + s.cfg.srcLen.toNat ∨ s.cfg.fbHi.toNat < s.cfg.fbLo.toNat
    let refused := fun c => ∃ t, exec (.start v) s = .next t ∧
      FaultEntry { s with st := { s.st with rowsDone := 0 } } t c 0 0 0
    (fmtBad → refused .cfgFmt) ∧
    (¬ fmtBad → modeBad → refused .cfgMode) ∧
    (¬ fmtBad → ¬ modeBad → ltselBad → refused .cfgLtsel) ∧
    (¬ fmtBad → ¬ modeBad → ¬ ltselBad → widthBad → refused .cfgWidth) ∧
    (¬ fmtBad → ¬ modeBad → ¬ ltselBad → ¬ widthBad → maskBad → refused .cfgMask) ∧
    (¬ fmtBad → ¬ modeBad → ¬ ltselBad → ¬ widthBad → ¬ maskBad → rangeBad → refused .cfgRange)

/-- R125, with `DONE` and `ROWS_DONE` as R123 leaves them: a configuration that passes every check begins its draw.
(`phase = .rowTop` is how the model says that the decoder loop comes next, log entry 3.) -/
def Obligations.StartInitialisesWorkingRegisters : Prop :=
  ∀ (s : State) (v : Reg32),
    s.cfg.fmt.toNat < 2 → s.cfg.mode.toNat < 3 → s.cfg.ltsel.toNat < 20 → 0 < s.cfg.width.toNat →
    (s.cfg.maskEn = true → s.cfg.width.toNat ≤ 64 ∧ s.cfg.maskAddr.toNat + 32 ≤ 256) →
    s.cfg.srcAddr.toNat + s.cfg.srcLen.toNat ≤ 2 ^ 32 → s.cfg.fbLo.toNat ≤ s.cfg.fbHi.toNat →
    ∃ t, exec (.start v) s = .next t ∧ t.phase = .rowTop ∧
      t.w.sp.toNat = s.cfg.srcAddr.toNat ∧ t.w.send.toNat = s.cfg.srcAddr.toNat + s.cfg.srcLen.toNat ∧
      t.w.drow = s.cfg.dstAddr ∧ t.w.r = 0 ∧ (t.w.p0 = true ↔ s.cfg.dstAddr.toNat % 2 = 1) ∧
      (t.w.x = s.w.x ∧ t.w.mw = s.w.mw ∧ t.w.vis = s.w.vis ∧ t.w.runKind = s.w.runKind ∧ t.w.runLen = s.w.runLen ∧
        t.w.runSrc = s.w.runSrc) ∧
      t.st = { s.st with done := false, rowsDone := 0 } ∧
      t.cfg = s.cfg ∧ t.mem = s.mem ∧ t.pix = s.pix ∧ t.pending = s.pending ∧ t.rdData = s.rdData

/-- The corner case of R123: `START` directly after reset raises `CFG_WIDTH` and touches no memory. -/
def Obligations.StartAfterResetFaultsOnWidth : Prop :=
  ∀ v : Reg32, ∃ t, exec (.start v) State.reset = .next t ∧ t.st.cause = .cfgWidth ∧ t.st.word = 0x43#32 ∧
    t.st.faultPc = 0 ∧ t.st.faultRow = 0 ∧ t.st.faultX = 0 ∧ t.st.rowsDone = 0 ∧ t.mem = State.reset.mem

/-- R71, its corner case: a draw whose extent is empty ends at once, with zero rows, no memory access and no fault. It is
two steps here, the `START` and the end of the frame (log entry 3). -/
def Obligations.EmptyFrameDrawsNothing : Prop :=
  ∀ (s : State) (v : Reg32) (q : List HostAction), s.phase = .idle →
    s.pending = .access (.write .word 0x24#8 v) :: q → s.cfg.startCheck = .none → s.cfg.srcLen = 0 →
    ∃ t, steps 2 s = .next t ∧ t.DrawOver ∧ t.st = { s.st with done := true, rowsDone := 0 } ∧
      t.cfg = s.cfg ∧ t.mem = s.mem ∧ t.pix = s.pix ∧ t.pending = q ∧ t.rdData = s.rdData

/-- What the host stores in a space between draws is what a read of it returns, and no other location changes (R34,
R41). Two things here are the model's choice: that the host stores through the queue (log entry 18), and that every one
of the `2^AW` addresses of SPR and of FB is backed by storage, so that a store anywhere in them is kept, which R44 and
R148 leave to the platform (log entry 25). -/
def Obligations.HostStoreIsReadBack : Prop :=
  ∀ (s : State) (q : List HostAction), s.phase = .idle →
    (∀ sp a v, s.pending = .poke sp a v :: q → a.toNat < sp.size →
      ∃ t, step s = .next t ∧ t.mem.readByte sp a.toNat = .ok v ∧
        (∀ sp' b, (sp', b) ≠ (sp, a.toNat) → t.mem.readByte sp' b = s.mem.readByte sp' b) ∧
        (∀ i, t.mem.readMask i = s.mem.readMask i) ∧ t.pending = q ∧
        t.cfg = s.cfg ∧ t.st = s.st ∧ t.w = s.w ∧ t.phase = s.phase) ∧
    (∀ i u, s.pending = .pokeMask i u :: q →
      ∃ t, step s = .next t ∧ t.mem.readMask i.toNat = .ok u ∧
        (∀ j, j ≠ i.toNat → t.mem.readMask j = s.mem.readMask j) ∧
        (∀ sp b, t.mem.readByte sp b = s.mem.readByte sp b) ∧ t.pending = q ∧
        t.cfg = s.cfg ∧ t.st = s.st ∧ t.w = s.w ∧ t.phase = s.phase)

/-! ## The step and the sequencer -/

/-- A step runs the instruction that the decoder reads where the machine stands: a host access at the head of the queue
(taken off it), the control byte at `SP`, the opaque row, or the selector of the pixel being processed. After a pixel
operation the step goes on to the next pixel of the run; after any other instruction it adds nothing. What one step is
is the model's choice, which R9 leaves to it: one instruction (log entry 3), a host access taken off the queue (log
entry 4), and going on to the next pixel, or past the run, in the step of the pixel operation (log entry 14). -/
def Obligations.StepRunsDecodedInstruction : Prop :=
  ∀ (s : State) (i : Instr),
    (∀ a q, s.phase = .idle → s.pending = .access a :: q → decode (.bus a) = .ok i →
      step s = exec i { s with pending := q }) ∧
    (∀ c, s.phase = .opcode → s.w.x.toNat < s.cfg.width.toNat → s.cfg.fmt ≠ 0#2 → s.w.sp ≠ s.w.send →
      s.mem.spr.read (s.w.sp.toNat % 2 ^ 32) = some c → decode (.c8 c) = .ok i → step s = exec i s) ∧
    (s.phase = .opcode → s.w.x.toNat < s.cfg.width.toNat → s.cfg.fmt = 0#2 → decode .raw = .ok i →
      step s = exec i s) ∧
    (s.phase = .run → s.w.vis = true → s.cfg.fbLo.toNat ≤ s.pixAddr.toNat → s.pixAddr.toNat < s.cfg.fbHi.toNat →
      decode (.psel (s.psel s.pixPos)) = .ok i →
      (∀ t, exec i s = .next t → step s = .next t.nextPixel) ∧
      (∀ f, exec i s = .fault f → step s = .fault f) ∧ ∀ r, exec i s = .refused r → step s = .refused r)

/-- What the step adds after a pixel: the next pixel of the run, or, after the last, `X` and `SP` past the run. The values
are those of the last two lines of R78 and R81; that the position in the run is a field of State is the model's choice
(log entry 3), and that `X` and `SP` advance in the step of the last pixel is its reading of them (log entry 14). -/
def Obligations.NextPixelAdvancesRun : Prop :=
  ∀ s : State,
    (s.pix.toNat + 1 < s.w.runLen.toNat → s.nextPixel = { s with pix := BitVec.ofNat 16 (s.pix.toNat + 1) }) ∧
    (s.pix.toNat + 1 = s.w.runLen.toNat → s.w.sp.toNat + 1 + s.w.runLen.toNat < 2 ^ 33 →
      s.w.x.toNat + s.w.runLen.toNat ≤ s.cfg.width.toNat → s.w.sp.toNat + s.cfg.width.toNat < 2 ^ 33 →
      OnlyWorkChanges s s.nextPixel ∧ s.nextPixel.phase = .opcode ∧ s.nextPixel.pix = s.pix ∧
      (s.cfg.fmt ≠ 0#2 → s.nextPixel.w.x.toNat = s.w.x.toNat + s.w.runLen.toNat ∧
        s.nextPixel.w.sp.toNat = s.w.sp.toNat + 1 + s.w.runLen.toNat) ∧
      (s.cfg.fmt = 0#2 → s.nextPixel.w.x = s.cfg.width ∧
        s.nextPixel.w.sp.toNat = s.w.sp.toNat + s.cfg.width.toNat) ∧
      s.nextPixel.w = { s.w with x := s.nextPixel.w.x, sp := s.nextPixel.w.sp })

/-- R71: at a row boundary with the extent consumed the draw ends without fault, `DONE` set. The equation says also that
the working registers keep their values, which R15 leaves unspecified after a draw: that is the model's choice (log
entry 13), and that the test is a step of its own too (log entry 3). -/
def Obligations.FrameEndsAtExtentEnd : Prop :=
  ∀ s : State, s.phase = .rowTop → s.w.sp = s.w.send →
    step s = .next { s with st := { s.st with done := true }, phase := .idle }

/-- R72: row start, with the mask word of R97 and the check of R107; or the fault of R98, with its record (R29, R132) as
R134 latches it. The record of `MASK_ROWS` holds `R` where R132 says 32: during a draw the two agree (log entry 21). That
row start is a step of its own is the model's choice (log entry 3). -/
def Obligations.RowStartPreparesRow : Prop :=
  ∀ s : State, s.phase = .rowTop → s.w.sp ≠ s.w.send →
    (s.cfg.maskEn = true → 32 ≤ s.w.r.toNat →
      ∃ t, step s = .next t ∧ FaultEntry s t .maskRows (BitVec.ofNat 32 s.w.sp.toNat) s.w.r 0) ∧
    (∀ u, s.cfg.maskEn = true → s.w.r.toNat < 32 → s.cfg.maskAddr.toNat + s.w.r.toNat < 256 →
      s.mem.msk.read (s.cfg.maskAddr.toNat + s.w.r.toNat) = some u →
      step s = .next { s with
        w := { s.w with
               mw := u
               vis := decide (s.cfg.fbLo.toNat ≤ s.w.drow.toNat ∧ s.w.drow.toNat < s.cfg.fbHi.toNat)
               x := 0 }
        phase := .opcode }) ∧
    (s.cfg.maskEn = false →
      step s = .next { s with
        w := { s.w with
               mw := BitVec.allOnes 64
               vis := decide (s.cfg.fbLo.toNat ≤ s.w.drow.toNat ∧ s.w.drow.toNat < s.cfg.fbHi.toNat)
               x := 0 }
        phase := .opcode })

/-- R74: a row ends when `X = WIDTH`, with these three updates. -/
def Obligations.RowEndStepsBackward : Prop :=
  ∀ s : State, s.phase = .opcode → s.w.x = s.cfg.width →
    ∃ t, step s = .next t ∧ t.phase = .rowTop ∧
      t.st = { s.st with rowsDone := BitVec.ofNat 32 (s.st.rowsDone.toNat + 1) } ∧
      t.w = { s.w with
              r := BitVec.ofNat 32 (s.w.r.toNat + 1)
              drow := BitVec.ofNat 32 (s.w.drow.toNat + (2 ^ 32 - s.cfg.pitch.toNat)) } ∧
      t.cfg = s.cfg ∧ t.mem = s.mem ∧ t.pix = s.pix ∧ t.pending = s.pending ∧ t.rdData = s.rdData

/-- R73: with `X < WIDTH` and no byte of the extent left, the fetch faults without reading anything. -/
def Obligations.FetchAtExtentEndFaults : Prop :=
  ∀ s : State, s.phase = .opcode → s.cfg.fmt ≠ 0#2 → s.w.x.toNat < s.cfg.width.toNat → s.w.sp = s.w.send →
    ∃ t, step s = .next t ∧
      FaultEntry s t .streamTrunc (BitVec.ofNat 32 s.w.send.toNat) s.w.r (BitVec.ofNat 32 s.w.x.toNat)

/-! ## The stream opcodes -/

/-- R80: `RSVD0` always faults. -/
def Obligations.ReservedByteFaults : Prop :=
  ∀ s : State, ∃ t, exec .rsvd0 s = .next t ∧
    FaultEntry s t .streamReserved (BitVec.ofNat 32 s.w.sp.toNat) s.w.r (BitVec.ofNat 32 s.w.x.toNat)

/-- `LIT` (R78, R77): a run that fits the row and the extent is handed to the compositor: its record, with the first
payload byte at `SP + 1`. That the instruction stops there, with `X`, `SP` and the surface unchanged, and that its pixels
and the last two lines of R78 are the steps that follow, is the model's choice (log entry 3). The whole of a `LIT` is
`LiteralRunCopiesItsPayload`. -/
def Obligations.LiteralRunBegins : Prop :=
  ∀ (s : State) (m : BitVec 7), m ≠ 0#7 → s.w.x.toNat + m.toNat ≤ s.cfg.width.toNat →
    s.w.sp.toNat + 1 + m.toNat ≤ s.w.send.toNat →
    ∃ t, exec (.lit m) s = .next t ∧ t.phase = .run ∧ t.pix = 0 ∧ t.w.runKind = .literal ∧
      t.w.runLen.toNat = m.toNat ∧ t.w.runSrc.toNat = (s.w.sp.toNat + 1) % 2 ^ 32 ∧
      t.w = { s.w with runKind := t.w.runKind, runLen := t.w.runLen, runSrc := t.w.runSrc } ∧
      OnlyWorkChanges s t

/-- `LIT`, its two faults in the order of R82: the row's width before the extent. -/
def Obligations.LiteralRunFaults : Prop :=
  ∀ (s : State) (m : BitVec 7), m ≠ 0#7 → s.w.x.toNat ≤ s.cfg.width.toNat → s.w.sp.toNat < s.w.send.toNat →
    (s.cfg.width.toNat < s.w.x.toNat + m.toNat →
      ∃ t, exec (.lit m) s = .next t ∧ FaultEntry s t .streamOverrun (BitVec.ofNat 32 s.w.sp.toNat) s.w.r
        (BitVec.ofNat 32 (m.toNat * 65536 + s.w.x.toNat))) ∧
    (s.w.x.toNat + m.toNat ≤ s.cfg.width.toNat → s.w.send.toNat < s.w.sp.toNat + 1 + m.toNat →
      ∃ t, exec (.lit m) s = .next t ∧ FaultEntry s t .streamTrunc (BitVec.ofNat 32 s.w.sp.toNat) s.w.r
        (BitVec.ofNat 32 (m.toNat * 65536 + s.w.x.toNat)))

/-- R79, R111: a skip run that fits the row advances `X` by its length and `SP` by 1, and touches no memory; one that
does not fit faults before anything else changes. The magnitude `m` of the control byte `128 + m` gives `n = 128 - m`. -/
def Obligations.SkipRunAdvances : Prop :=
  ∀ (s : State) (m : BitVec 7), s.w.x.toNat ≤ s.cfg.width.toNat → s.w.sp.toNat < 2 ^ 32 →
    (s.w.x.toNat + (128 - m.toNat) ≤ s.cfg.width.toNat →
      ∃ t, exec (.skip m) s = .next t ∧ t.phase = s.phase ∧ t.pix = s.pix ∧ t.w.runKind = .skip ∧
        t.w.runLen.toNat = 128 - m.toNat ∧ t.w.x.toNat = s.w.x.toNat + (128 - m.toNat) ∧
        t.w.sp.toNat = s.w.sp.toNat + 1 ∧
        t.w = { s.w with runKind := t.w.runKind, runLen := t.w.runLen, x := t.w.x, sp := t.w.sp } ∧
        OnlyWorkChanges s t) ∧
    (s.cfg.width.toNat < s.w.x.toNat + (128 - m.toNat) →
      ∃ t, exec (.skip m) s = .next t ∧ FaultEntry s t .streamOverrun (BitVec.ofNat 32 s.w.sp.toNat) s.w.r
        (BitVec.ofNat 32 ((128 + m.toNat) * 65536 + s.w.x.toNat)))

/-- `RAWROW` (R81, R77): a whole row left in the extent is handed to the compositor as one run of `WIDTH` pixels from
`SP`; a partial last row faults before any of its pixels. That the instruction stops at the run record, with `X`, `SP`
and the surface unchanged, and that its pixels and the last two lines of R81 are the steps that follow, is the model's
choice (log entry 3). The whole of a `RAWROW` is `RawRowCopiesItsPixels`. -/
def Obligations.RawRowBeginsOrFaults : Prop :=
  ∀ s : State, s.w.sp.toNat ≤ s.w.send.toNat →
    (s.w.sp.toNat + s.cfg.width.toNat ≤ s.w.send.toNat →
      ∃ t, exec .rawrow s = .next t ∧ t.phase = .run ∧ t.pix = 0 ∧ t.w.runKind = .literal ∧
        t.w.runLen = s.cfg.width ∧ t.w.runSrc.toNat = s.w.sp.toNat % 2 ^ 32 ∧
        t.w = { s.w with runKind := t.w.runKind, runLen := t.w.runLen, runSrc := t.w.runSrc } ∧
        OnlyWorkChanges s t) ∧
    (s.w.send.toNat < s.w.sp.toNat + s.cfg.width.toNat →
      ∃ t, exec .rawrow s = .next t ∧ FaultEntry s t .streamTrunc (BitVec.ofNat 32 s.w.sp.toNat) s.w.r 0)

/-! ## Masks, tables and pixels -/

/-- R100: the mask bit of a row position. -/
def Obligations.MaskBitOfPosition : Prop :=
  ∀ (s : State) (x : Pos),
    (s.cfg.maskEn = false → s.mbit x = true) ∧
    (s.cfg.maskEn = true → x.toNat < 64 → s.mbit x = s.w.mw.getLsbD (63 - x.toNat))

/-- R101: the stipple predicate is the parity of phase, position and row, so the other phase exchanges the kept and the
omitted positions (R104). -/
def Obligations.StippleIsCheckerboard : Prop :=
  ∀ (s : State) (x : Pos),
    (s.stip x = true ↔ ((if s.w.p0 then 1 else 0) + x.toNat + s.w.r.toNat) % 2 = 0) ∧
    ∀ s' : State, s'.w.r = s.w.r → s'.w.p0 = !s.w.p0 → s'.stip x = !s.stip x

/-- R102: the effective bit. -/
def Obligations.EffectiveBitByMode : Prop :=
  ∀ (s : State) (x : Pos),
    (s.cfg.mode = 0#2 ∨ s.cfg.mode = 2#2 → s.ebit x = s.mbit x) ∧
    (s.cfg.mode = 1#2 → s.ebit x = (s.mbit x && s.stip x))

/-- R87: the light-table apply, whatever LT holds for levels 0 and 15. -/
def Obligations.LightTableApply : Prop :=
  ∀ (m : Spaces) (sel : BitVec 5) (v : Byte),
    (sel.toNat = 0 → m.light sel v = .ok v) ∧
    (sel.toNat = 15 → m.light sel v = .ok 0x00#8) ∧
    (sel.toNat ≠ 0 → sel.toNat ≠ 15 → sel.toNat < 20 → ∀ u, m.lt.read (sel.toNat * 256 + v.toNat) = some u →
      m.light sel v = .ok u)

/-- R112: `PIX_COPY` stores the payload byte at the pixel's address; the rest of the machine is unchanged. -/
def Obligations.PixCopyStoresPayload : Prop :=
  ∀ (s : State) (b : Bool) (v : Byte),
    s.mem.spr.read ((s.w.runSrc.toNat + s.pix.toNat) % 2 ^ 32) = some v →
    ∃ t, exec (.pixCopy b) s = .next t ∧ StoresByte s t s.pixAddr v

/-- R113: `PIX_FILL0` stores index 0 at the pixel's address. -/
def Obligations.PixFill0StoresZero : Prop :=
  ∀ (s : State) (b : Bool), ∃ t, exec (.pixFill0 b) s = .next t ∧ StoresByte s t s.pixAddr 0x00#8

/-- R114: `PIX_REMAP` stores the light table's entry for the payload byte at the pixel's address. -/
def Obligations.PixRemapStoresTableEntry : Prop :=
  ∀ (s : State) (b : Bool) (v u : Byte), s.cfg.ltsel.toNat < 20 →
    s.mem.spr.read ((s.w.runSrc.toNat + s.pix.toNat) % 2 ^ 32) = some v →
    s.mem.lt.read (s.cfg.ltsel.toNat * 256 + v.toNat) = some u →
    ∃ t, exec (.pixRemap b) s = .next t ∧ StoresByte s t s.pixAddr u

/-- R115: `PIX_BLEND0` replaces the byte at the pixel's address by the blend table's entry for it and index 0. -/
def Obligations.PixBlend0DarkensDestination : Prop :=
  ∀ (s : State) (lc : BitVec 2) (d u : Byte), s.mem.fb.read s.pixAddr.toNat = some d →
    s.mem.bl.read (d.toNat * 256) = some u →
    ∃ t, exec (.pixBlend0 lc) s = .next t ∧ StoresByte s t s.pixAddr u

/-- R116: `PIX_KEEP` changes nothing. -/
def Obligations.PixKeepChangesNothing : Prop :=
  ∀ (s : State) (lc : BitVec 2), exec (.pixKeep lc) s = .next s

/-- R46: the address of the pixel being processed, in a `LIT` and in a `RAWROW`. -/
def Obligations.PixelAddressWraps : Prop :=
  ∀ s : State,
    (s.cfg.fmt ≠ 0#2 → s.w.x.toNat + s.pix.toNat < 65536 →
      s.pixAddr.toNat = (s.w.drow.toNat + (s.w.x.toNat + s.pix.toNat)) % 2 ^ 32) ∧
    (s.cfg.fmt = 0#2 → s.pixAddr.toNat = (s.w.drow.toNat + s.pix.toNat) % 2 ^ 32)

/-- R107, R108: a pixel of an invisible row, or with its address outside the valid range, is passed over: no memory, no
configuration, status or fault register changes, and the step goes on as after any other pixel. That is
`State.nextPixel`: before the last pixel of the run only the position in the run advances (a field of the model's own,
log entry 3); after the last, `X` and `SP` advance past the run in the same step (log entry 14). -/
def Obligations.ClippedPixelIsSilent : Prop :=
  ∀ s : State, s.phase = .run →
    (s.w.vis = false ∨ s.pixAddr.toNat < s.cfg.fbLo.toNat ∨ s.cfg.fbHi.toNat ≤ s.pixAddr.toNat) →
    step s = .next s.nextPixel ∧ OnlyWorkChanges s s.nextPixel

/-- R110, in its second form: a pixel that survives clipping is `FB[a] <- LIGHT(LTSEL, s)` if its effective bit is 1,
else `FB[a] <- BLEND0(FB[a])` in blended mode, else nothing; then the next pixel. -/
def Obligations.PixelProcedureIsLightOrBlend : Prop :=
  ∀ (s : State) (v : Byte), s.phase = .run → s.w.vis = true → s.cfg.inFb s.pixAddr = true →
    s.cfg.ltsel.toNat < 20 → s.payload = .ok v →
    (s.ebit s.pixPos = true →
      step s = withValue (s.mem.light s.cfg.ltsel v) fun u => .next (s.writeFb s.pixAddr u).nextPixel) ∧
    (s.ebit s.pixPos = false → s.cfg.mode = 2#2 →
      step s = withValue s.surface fun d => withValue (s.mem.blend0 d) fun u =>
        .next (s.writeFb s.pixAddr u).nextPixel) ∧
    (s.ebit s.pixPos = false → s.cfg.mode ≠ 2#2 → step s = .next s.nextPixel)

/-! ## The whole machine -/

/-- Every step keeps the invariant: canonical spaces, reserved bits, the fault record, and everything a draw relies
on (`State.Inv`). -/
def Obligations.StepKeepsInvariant : Prop :=
  ∀ s t : State, s.Inv → step s = .next t → t.Inv

/-- Every step, from any state at all, keeps the spaces in canonical form. -/
def Obligations.StepKeepsSpacesCanonical : Prop :=
  ∀ s t : State, s.mem.Canonical → step s = .next t → t.mem.Canonical

/-- R117: a step of a draw writes FB inside the valid range alone, and no other space and no configuration register;
the host's queue and read data wait (R51). -/
def Obligations.DrawWritesOnlyValidSurface : Prop :=
  ∀ s t : State, s.phase ≠ .idle → step s = .next t →
    (∀ a : Nat, a < s.cfg.fbLo.toNat ∨ s.cfg.fbHi.toNat ≤ a → t.mem.fb.read a = s.mem.fb.read a) ∧
    t.mem.spr = s.mem.spr ∧ t.mem.lt = s.mem.lt ∧ t.mem.bl = s.mem.bl ∧ t.mem.msk = s.mem.msk ∧
    t.cfg = s.cfg ∧ t.pending = s.pending ∧ t.rdData = s.rdData

/-- The host writes no space through the register window: a host command outside a draw leaves every space, and every
working register unless it starts a draw (R13, R34, R121). -/
def Obligations.HostCommandTouchesNoSpace : Prop :=
  ∀ (s t : State) (a : BusAccess) (q : List HostAction), s.phase = .idle → s.pending = .access a :: q →
    step s = .next t → t.mem = s.mem ∧ t.pix = s.pix ∧ t.pending = q ∧ (t.w = s.w ∨ t.phase = .rowTop)

/-- R28, R134: `CAUSE` and its record are sticky: once a fault is latched, only a host write to `STATUS` with bit 1 set
changes them. -/
def Obligations.LatchedFaultIsSticky : Prop :=
  ∀ s t : State, s.st.cause ≠ .none → step s = .next t →
    (t.st.cause = s.st.cause ∧ t.st.faultPc = s.st.faultPc ∧ t.st.faultRow = s.st.faultRow ∧
      t.st.faultX = s.st.faultX) ∨
    (s.phase = .idle ∧ ∃ v q, s.pending = .access (.write .word 0x28#8 v) :: q ∧ v.getLsbD 1 = true)

/-- R71, R134: a step that ends a draw sets `DONE`, and is either the frame end at a row boundary, which leaves the fault
record alone, or fault entry with one of the four stream causes (R130). -/
def Obligations.DrawEndsByFrameEndOrFault : Prop :=
  ∀ s t : State, s.phase ≠ .idle → step s = .next t → t.phase = .idle →
    t.st.done = true ∧
    ((s.phase = .rowTop ∧ s.w.sp = s.w.send ∧ t.st = { s.st with done := true }) ∨
      ∃ c pc row fx, c ∈ [Cause.streamReserved, .streamOverrun, .streamTrunc, .maskRows] ∧
        FaultEntry s t c pc row fx)

/-- R17: during a draw `SP` only ever increases. -/
def Obligations.StreamPointerNeverMovesBack : Prop :=
  ∀ s t : State, s.Inv → s.phase ≠ .idle → step s = .next t → s.w.sp.toNat ≤ t.w.sp.toNat

/-- R75: a draw reads SPR only at addresses in `[SRC_ADDR, SEND)`: with any other content of SPR outside the extent the
step is the same. -/
def Obligations.StreamReadsStayInExtent : Prop :=
  ∀ (s : State) (m : Memory), s.Inv → s.phase ≠ .idle →
    (∀ a, s.cfg.srcAddr.toNat ≤ a → a < s.w.send.toNat → m.read a = s.mem.spr.read a) →
    step (s.withSpr m) = mapNext (·.withSpr m) (step s)

/-- R47, R87: a draw reads LT only in tables 1 to 14 and 16 to 19: what tables 0 and 15 hold cannot matter. -/
def Obligations.BypassedLightTablesNeverRead : Prop :=
  ∀ (s : State) (m : Memory), s.phase ≠ .idle →
    (∀ a, 256 ≤ a ∧ a < 15 * 256 ∨ 16 * 256 ≤ a ∧ a < 20 * 256 → m.read a = s.mem.lt.read a) →
    step (s.withLt m) = mapNext (·.withLt m) (step s)

/-- R48: a draw reads BL only at the 256 addresses `d * 256`: the rest of the table cannot matter. -/
def Obligations.OnlyBlendColumnZeroRead : Prop :=
  ∀ (s : State) (m : Memory), s.phase ≠ .idle →
    (∀ d, d < 256 → m.read (d * 256) = s.mem.bl.read (d * 256)) →
    step (s.withBl m) = mapNext (·.withBl m) (step s)

/-- R76: every draw ends. From any state of a draw, within the steps that the bytes left allow, the draw is over with
`DONE` set, or a location that nothing has written was read (R43); it is never refused. The bound counts the model's
steps, whose size is the model's choice (log entry 3). -/
def Obligations.EveryDrawEnds : Prop :=
  ∀ s : State, s.Inv → s.phase ≠ .idle → ∃ k, k ≤ 4 * s.bytesLeft + 3 ∧
    ((∃ t, steps k s = .next t ∧ t.DrawOver) ∨
      (∃ sp a, steps k s = .fault (.noValue sp a)) ∨ ∃ i, steps k s = .fault (.noMaskWord i))

/-- R78 and R112 through R119: the whole of a `LIT` at level 0 under a fully opaque mask (none, or every mask bit the run
uses 1), not stippled. Its control byte and its `n` pixels are `1 + n` steps (the model's choice, log entry 3), after which
`X` and `SP` are past the run, every pixel of a visible row whose address is valid holds its payload byte, and every
other byte of the machine is as before. -/
def Obligations.LiteralRunCopiesItsPayload : Prop :=
  ∀ (s : State) (m : BitVec 7) (p : Nat → Byte),
    s.phase = .opcode → s.cfg.fmt = 1#2 → m ≠ 0#7 →
    s.mem.spr.read s.w.sp.toNat = some (BitVec.ofNat 8 m.toNat) →
    s.w.x.toNat + m.toNat ≤ s.cfg.width.toNat →
    s.w.sp.toNat + 1 + m.toNat ≤ s.w.send.toNat → s.w.send.toNat ≤ 2 ^ 32 →
    (∀ i, i < m.toNat → s.mem.spr.read (s.w.sp.toNat + 1 + i) = some (p i)) →
    s.cfg.ltsel = 0#5 → s.cfg.mode ≠ 1#2 →
    (s.cfg.maskEn = false ∨
      s.cfg.width.toNat ≤ 64 ∧ ∀ i, i < m.toNat → s.w.mw.getLsbD (63 - (s.w.x.toNat + i)) = true) →
    ∃ t, steps (1 + m.toNat) s = .next t ∧ t.phase = .opcode ∧
      t.w.x.toNat = s.w.x.toNat + m.toNat ∧ t.w.sp.toNat = s.w.sp.toNat + 1 + m.toNat ∧
      (t.w.runKind = .literal ∧ t.w.runLen.toNat = m.toNat ∧ t.w.runSrc.toNat = s.w.sp.toNat + 1) ∧
      t.w = { s.w with x := t.w.x, sp := t.w.sp, runKind := t.w.runKind, runLen := t.w.runLen,
                       runSrc := t.w.runSrc } ∧
      t.cfg = s.cfg ∧ t.st = s.st ∧ t.pending = s.pending ∧ t.rdData = s.rdData ∧
      t.mem = { s.mem with fb := t.mem.fb } ∧
      (∀ i, i < m.toNat → ∀ a : Addr, a.toNat = (s.w.drow.toNat + s.w.x.toNat + i) % 2 ^ 32 →
        s.w.vis = true → s.cfg.fbLo.toNat ≤ a.toNat → a.toNat < s.cfg.fbHi.toNat →
        t.mem.fb.read a.toNat = some (p i)) ∧
      (∀ a : Nat, (s.w.vis = false ∨ a < s.cfg.fbLo.toNat ∨ s.cfg.fbHi.toNat ≤ a ∨
          ∀ i, i < m.toNat → a ≠ (s.w.drow.toNat + s.w.x.toNat + i) % 2 ^ 32) →
        t.mem.fb.read a = s.mem.fb.read a)

/-- R81 and R112 through R119: the whole of a `RAWROW` at level 0 under a fully opaque mask (none, or every mask bit of
the row 1), not stippled, in `1 + WIDTH` steps (the model's choice, log entry 3). -/
def Obligations.RawRowCopiesItsPixels : Prop :=
  ∀ (s : State) (p : Nat → Byte),
    s.phase = .opcode → s.cfg.fmt = 0#2 → s.w.x = 0 → 0 < s.cfg.width.toNat →
    s.w.sp.toNat + s.cfg.width.toNat ≤ s.w.send.toNat → s.w.send.toNat ≤ 2 ^ 32 →
    (∀ i, i < s.cfg.width.toNat → s.mem.spr.read (s.w.sp.toNat + i) = some (p i)) →
    s.cfg.ltsel = 0#5 → s.cfg.mode ≠ 1#2 →
    (s.cfg.maskEn = false ∨
      s.cfg.width.toNat ≤ 64 ∧ ∀ i, i < s.cfg.width.toNat → s.w.mw.getLsbD (63 - i) = true) →
    ∃ t, steps (1 + s.cfg.width.toNat) s = .next t ∧ t.phase = .opcode ∧
      t.w.x = s.cfg.width ∧ t.w.sp.toNat = s.w.sp.toNat + s.cfg.width.toNat ∧
      (t.w.runKind = .literal ∧ t.w.runLen = s.cfg.width ∧ t.w.runSrc.toNat = s.w.sp.toNat) ∧
      t.w = { s.w with x := t.w.x, sp := t.w.sp, runKind := t.w.runKind, runLen := t.w.runLen,
                       runSrc := t.w.runSrc } ∧
      t.cfg = s.cfg ∧ t.st = s.st ∧ t.pending = s.pending ∧ t.rdData = s.rdData ∧
      t.mem = { s.mem with fb := t.mem.fb } ∧
      (∀ i, i < s.cfg.width.toNat → ∀ a : Addr, a.toNat = (s.w.drow.toNat + i) % 2 ^ 32 →
        s.w.vis = true → s.cfg.fbLo.toNat ≤ a.toNat → a.toNat < s.cfg.fbHi.toNat →
        t.mem.fb.read a.toNat = some (p i)) ∧
      (∀ a : Nat, (s.w.vis = false ∨ a < s.cfg.fbLo.toNat ∨ s.cfg.fbHi.toNat ≤ a ∨
          ∀ i, i < s.cfg.width.toNat → a ≠ (s.w.drow.toNat + i) % 2 ^ 32) →
        t.mem.fb.read a = s.mem.fb.read a)
end

