-- ==== Sys2Proof/Laws/Memory.lean ====
section
/-! SUPPORT. Reading and writing the spaces, and the canonical form that every operation keeps. -/

namespace Sys2Proof.Machine

/-- The `MASK_ADDR` field holds exactly the indices of MSK (R26). -/
theorem two_pow_maskAddrBits : 2 ^ Config.MASK_ADDR_BITS = Config.MSK_WORDS := by decide

variable {α : Type}

@[simp] theorem Cells.read_nil (a : Nat) : Cells.read ([] : Cells α) a = none := rfl

@[simp] theorem Cells.read_write_same (m : Cells α) (a : Nat) (v : α) : (m.write a v).read a = some v := by
  induction m with
  | nil => simp [Cells.write, Cells.read]
  | cons p m ih =>
    obtain ⟨k, u⟩ := p
    by_cases h₁ : a < k
    · simp [Cells.write, Cells.read, h₁]
    · by_cases h₂ : a = k
      · simp [Cells.write, Cells.read, h₂]
      · simp [Cells.write, Cells.read, h₁, h₂, ih]

theorem Cells.read_write_other (m : Cells α) {a b : Nat} (v : α) (h : b ≠ a) : (m.write a v).read b = m.read b := by
  induction m with
  | nil => simp [Cells.write, Cells.read, h]
  | cons p m ih =>
    obtain ⟨k, u⟩ := p
    by_cases h₁ : a < k
    · simp [Cells.write, Cells.read, h₁, h]
    · by_cases h₂ : a = k
      · subst h₂
        simp [Cells.write, Cells.read, h]
      · simp [Cells.write, Cells.read, h₁, h₂, ih]

theorem Cells.read_write (m : Cells α) (a b : Nat) (v : α) :
    (m.write a v).read b = if b = a then some v else m.read b := by
  by_cases h : b = a
  · simp [h]
  · simp [h, Cells.read_write_other m v h]

theorem Cells.risesFrom_mono {lo lo' : Nat} (h : lo' ≤ lo) :
    ∀ {m : Cells α}, m.risesFrom lo = true → m.risesFrom lo' = true
  | [], _ => rfl
  | (k, u) :: m, hm => by
    simp only [Cells.risesFrom, Bool.and_eq_true, decide_eq_true_eq] at hm ⊢
    exact ⟨h.trans hm.1, hm.2⟩

theorem Cells.risesFrom_write {lo a : Nat} (v : α) (ha : lo ≤ a) {m : Cells α} (hm : m.risesFrom lo = true) :
    (m.write a v).risesFrom lo = true := by
  induction m generalizing lo with
  | nil => simp [Cells.write, Cells.risesFrom, ha]
  | cons p m ih =>
    obtain ⟨k, u⟩ := p
    simp only [Cells.risesFrom, Bool.and_eq_true, decide_eq_true_eq] at hm
    unfold Cells.write
    split
    · rename_i h
      simp [Cells.risesFrom, ha, hm.2, Nat.succ_le_of_lt h]
    · split
      · rename_i h
        simp [Cells.risesFrom, h, hm]
      · rename_i h₁ h₂
        simp [Cells.risesFrom, hm.1, ih (Nat.succ_le_of_lt (by omega)) hm.2]

/-- Writing keeps the canonical form. -/
theorem Cells.wf_write {m : Cells α} (a : Nat) (v : α) (hm : m.wf = true) : (m.write a v).wf = true :=
  Cells.risesFrom_write v (Nat.zero_le a) hm

theorem Cells.below_write {m : Cells α} {n a : Nat} (v : α) (ha : a < n) (hm : m.below n = true) :
    (m.write a v).below n = true := by
  induction m with
  | nil => simp [Cells.write, Cells.below, ha]
  | cons p m ih =>
    obtain ⟨k, u⟩ := p
    simp only [Cells.below, Bool.and_eq_true, decide_eq_true_eq] at hm
    unfold Cells.write
    split
    · simp [Cells.below, ha, hm]
    · split
      · simp [Cells.below, ha, hm]
      · simp [Cells.below, hm.1, ih hm.2]

/-- What a byte read that answers has read. -/
theorem Spaces.readByte_eq_ok {m : Spaces} {sp : ByteSpace} {a : Nat} {v : Byte} :
    m.readByte sp a = .ok v ↔ a < sp.size ∧ (m.get sp).read a = some v := by
  unfold Spaces.readByte
  split
  · split <;> simp_all
  · simp_all

/-- A byte read that does not answer says why. -/
theorem Spaces.readByte_eq_error {m : Spaces} {sp : ByteSpace} {a : Nat} {f : Fault} :
    m.readByte sp a = .error f ↔
      (a < sp.size ∧ (m.get sp).read a = none ∧ f = .noValue sp a) ∨ (sp.size ≤ a ∧ f = .absentAddress sp a) := by
  by_cases h : a < sp.size
  · cases hr : (m.get sp).read a <;> simp [Spaces.readByte, h, hr, eq_comm]
  · simp [Spaces.readByte, h, Nat.le_of_not_lt h, eq_comm]

/-- What a mask fetch that answers has read. -/
theorem Spaces.readMask_eq_ok {m : Spaces} {i : Nat} {u : MaskWord} :
    m.readMask i = .ok u ↔ i < Config.MSK_WORDS ∧ m.msk.read i = some u := by
  unfold Spaces.readMask
  split
  · split <;> simp_all
  · simp_all

/-- An FB or SPR address is below the size of its space. -/
theorem Addr.lt_size (a : Addr) : a.toNat < ByteSpace.fb.size ∧ a.toNat < ByteSpace.spr.size := ⟨a.isLt, a.isLt⟩

theorem Spaces.readByte_fb {m : Spaces} {a : Addr} {v : Byte} :
    m.readByte .fb a.toNat = .ok v ↔ m.fb.read a.toNat = some v := by
  rw [Spaces.readByte_eq_ok]
  exact ⟨fun h => h.2, fun h => ⟨(Addr.lt_size a).1, h⟩⟩

theorem Spaces.readByte_spr {m : Spaces} {a : Addr} {v : Byte} :
    m.readByte .spr a.toNat = .ok v ↔ m.spr.read a.toNat = some v := by
  rw [Spaces.readByte_eq_ok]
  exact ⟨fun h => h.2, fun h => ⟨(Addr.lt_size a).2, h⟩⟩

/-- The engine's write keeps the form of the spaces. -/
theorem State.writeFb_canonical {s : State} (a : Addr) (v : Byte) (h : s.mem.Canonical) :
    (s.writeFb a v).mem.Canonical where
  spr_wf := h.spr_wf
  lt_wf := h.lt_wf
  bl_wf := h.bl_wf
  msk_wf := h.msk_wf
  fb_wf := Cells.wf_write _ _ h.fb_wf
  spr_below := h.spr_below
  lt_below := h.lt_below
  bl_below := h.bl_below
  msk_below := h.msk_below
  fb_below := Cells.below_write _ a.isLt h.fb_below

/-- The host's store of a mask word keeps the form of the spaces. -/
theorem State.pokeMaskWord_canonical {s : State} (i : MaskIndex) (u : MaskWord) (h : s.mem.Canonical) :
    (s.pokeMaskWord i u).mem.Canonical where
  spr_wf := h.spr_wf
  lt_wf := h.lt_wf
  bl_wf := h.bl_wf
  msk_wf := Cells.wf_write _ _ h.msk_wf
  fb_wf := h.fb_wf
  spr_below := h.spr_below
  lt_below := h.lt_below
  bl_below := h.bl_below
  msk_below := Cells.below_write _ i.isLt h.msk_below
  fb_below := h.fb_below

/-- The host's store of a byte, where it answers, has stored it in a location of the space. -/
theorem State.pokeByte_eq_next {s t : State} {sp : ByteSpace} {a : Addr} {v : Byte} :
    s.pokeByte sp a v = .next t ↔
      a.toNat < sp.size ∧ t = { s with mem := s.mem.set sp ((s.mem.get sp).write a.toNat v) } := by
  unfold State.pokeByte
  split <;> simp_all [eq_comm]

/-- The host's store of a byte keeps the form of the spaces. -/
theorem State.pokeByte_canonical {s t : State} {sp : ByteSpace} {a : Addr} {v : Byte}
    (ht : s.pokeByte sp a v = .next t) (h : s.mem.Canonical) : t.mem.Canonical := by
  obtain ⟨ha, rfl⟩ := State.pokeByte_eq_next.1 ht
  obtain ⟨h₁, h₂, h₃, h₄, h₅, h₆, h₇, h₈, h₉, h₁₀⟩ := h
  cases sp
  · exact ⟨Cells.wf_write _ _ h₁, h₂, h₃, h₄, h₅, Cells.below_write _ ha h₆, h₇, h₈, h₉, h₁₀⟩
  · exact ⟨h₁, Cells.wf_write _ _ h₂, h₃, h₄, h₅, h₆, Cells.below_write _ ha h₇, h₈, h₉, h₁₀⟩
  · exact ⟨h₁, h₂, Cells.wf_write _ _ h₃, h₄, h₅, h₆, h₇, Cells.below_write _ ha h₈, h₉, h₁₀⟩
  · exact ⟨h₁, h₂, h₃, h₄, Cells.wf_write _ _ h₅, h₆, h₇, h₈, h₉, Cells.below_write _ ha h₁₀⟩

/-- Reset's spaces have the form. -/
theorem State.reset_canonical : State.reset.mem.Canonical := by
  constructor <;> rfl

end Sys2Proof.Machine
end

