-- ==== Sys2Proof/Laws/State.lean ====
section
/-! SUPPORT. What each named update leaves in each field of the state, so that no proof unfolds a record update. -/

namespace Sys2Proof.Machine

/-! ### `State.setDone` -/

@[simp] theorem State.setDone_cfg (s : State) (d : Bool) : (s.setDone d).cfg = s.cfg := rfl
@[simp] theorem State.setDone_st_done (s : State) (d : Bool) : (s.setDone d).st.done = d := rfl
@[simp] theorem State.setDone_st_cause (s : State) (d : Bool) : (s.setDone d).st.cause = s.st.cause := rfl
@[simp] theorem State.setDone_st_faultPc (s : State) (d : Bool) : (s.setDone d).st.faultPc = s.st.faultPc := rfl
@[simp] theorem State.setDone_st_faultRow (s : State) (d : Bool) : (s.setDone d).st.faultRow = s.st.faultRow := rfl
@[simp] theorem State.setDone_st_faultX (s : State) (d : Bool) : (s.setDone d).st.faultX = s.st.faultX := rfl
@[simp] theorem State.setDone_st_rowsDone (s : State) (d : Bool) : (s.setDone d).st.rowsDone = s.st.rowsDone := rfl
@[simp] theorem State.setDone_w (s : State) (d : Bool) : (s.setDone d).w = s.w := rfl
@[simp] theorem State.setDone_mem (s : State) (d : Bool) : (s.setDone d).mem = s.mem := rfl
@[simp] theorem State.setDone_phase (s : State) (d : Bool) : (s.setDone d).phase = s.phase := rfl
@[simp] theorem State.setDone_pix (s : State) (d : Bool) : (s.setDone d).pix = s.pix := rfl
@[simp] theorem State.setDone_pending (s : State) (d : Bool) : (s.setDone d).pending = s.pending := rfl
@[simp] theorem State.setDone_rdData (s : State) (d : Bool) : (s.setDone d).rdData = s.rdData := rfl

/-! ### `State.clearRecord` -/

@[simp] theorem State.clearRecord_cfg (s : State) : (s.clearRecord).cfg = s.cfg := rfl
@[simp] theorem State.clearRecord_st_done (s : State) : (s.clearRecord).st.done = s.st.done := rfl
@[simp] theorem State.clearRecord_st_cause (s : State) : (s.clearRecord).st.cause = .none := rfl
@[simp] theorem State.clearRecord_st_faultPc (s : State) : (s.clearRecord).st.faultPc = 0 := rfl
@[simp] theorem State.clearRecord_st_faultRow (s : State) : (s.clearRecord).st.faultRow = 0 := rfl
@[simp] theorem State.clearRecord_st_faultX (s : State) : (s.clearRecord).st.faultX = 0 := rfl
@[simp] theorem State.clearRecord_st_rowsDone (s : State) : (s.clearRecord).st.rowsDone = s.st.rowsDone := rfl
@[simp] theorem State.clearRecord_w (s : State) : (s.clearRecord).w = s.w := rfl
@[simp] theorem State.clearRecord_mem (s : State) : (s.clearRecord).mem = s.mem := rfl
@[simp] theorem State.clearRecord_phase (s : State) : (s.clearRecord).phase = s.phase := rfl
@[simp] theorem State.clearRecord_pix (s : State) : (s.clearRecord).pix = s.pix := rfl
@[simp] theorem State.clearRecord_pending (s : State) : (s.clearRecord).pending = s.pending := rfl
@[simp] theorem State.clearRecord_rdData (s : State) : (s.clearRecord).rdData = s.rdData := rfl

/-! ### `State.latchFault` -/

@[simp] theorem State.latchFault_cfg (s : State) (c : Cause) (pc row : Addr)
  (fx : Reg32) : (s.latchFault c pc row fx).cfg = s.cfg := by
  unfold State.latchFault; split <;> rfl
@[simp] theorem State.latchFault_st_done (s : State) (c : Cause) (pc row : Addr)
  (fx : Reg32) : (s.latchFault c pc row fx).st.done = s.st.done := by
  unfold State.latchFault; split <;> rfl
@[simp] theorem State.latchFault_st_cause (s : State) (c : Cause) (pc row : Addr)
  (fx : Reg32) : (s.latchFault c pc row fx).st.cause = if s.st.cause = .none then c else s.st.cause := by
  unfold State.latchFault; split <;> rfl
@[simp] theorem State.latchFault_st_faultPc (s : State) (c : Cause) (pc row : Addr)
  (fx : Reg32) : (s.latchFault c pc row fx).st.faultPc = if s.st.cause = .none then pc else s.st.faultPc := by
  unfold State.latchFault; split <;> rfl
@[simp] theorem State.latchFault_st_faultRow (s : State) (c : Cause) (pc row : Addr)
  (fx : Reg32) : (s.latchFault c pc row fx).st.faultRow = if s.st.cause = .none then row else s.st.faultRow := by
  unfold State.latchFault; split <;> rfl
@[simp] theorem State.latchFault_st_faultX (s : State) (c : Cause) (pc row : Addr)
  (fx : Reg32) : (s.latchFault c pc row fx).st.faultX = if s.st.cause = .none then fx else s.st.faultX := by
  unfold State.latchFault; split <;> rfl
@[simp] theorem State.latchFault_st_rowsDone (s : State) (c : Cause) (pc row : Addr)
  (fx : Reg32) : (s.latchFault c pc row fx).st.rowsDone = s.st.rowsDone := by
  unfold State.latchFault; split <;> rfl
@[simp] theorem State.latchFault_w (s : State) (c : Cause) (pc row : Addr)
  (fx : Reg32) : (s.latchFault c pc row fx).w = s.w := by
  unfold State.latchFault; split <;> rfl
@[simp] theorem State.latchFault_mem (s : State) (c : Cause) (pc row : Addr)
  (fx : Reg32) : (s.latchFault c pc row fx).mem = s.mem := by
  unfold State.latchFault; split <;> rfl
@[simp] theorem State.latchFault_phase (s : State) (c : Cause) (pc row : Addr)
  (fx : Reg32) : (s.latchFault c pc row fx).phase = s.phase := by
  unfold State.latchFault; split <;> rfl
@[simp] theorem State.latchFault_pix (s : State) (c : Cause) (pc row : Addr)
  (fx : Reg32) : (s.latchFault c pc row fx).pix = s.pix := by
  unfold State.latchFault; split <;> rfl
@[simp] theorem State.latchFault_pending (s : State) (c : Cause) (pc row : Addr)
  (fx : Reg32) : (s.latchFault c pc row fx).pending = s.pending := by
  unfold State.latchFault; split <;> rfl
@[simp] theorem State.latchFault_rdData (s : State) (c : Cause) (pc row : Addr)
  (fx : Reg32) : (s.latchFault c pc row fx).rdData = s.rdData := by
  unfold State.latchFault; split <;> rfl

/-! ### `State.endDraw` -/

@[simp] theorem State.endDraw_cfg (s : State) : (s.endDraw).cfg = s.cfg := rfl
@[simp] theorem State.endDraw_st_done (s : State) : (s.endDraw).st.done = true := rfl
@[simp] theorem State.endDraw_st_cause (s : State) : (s.endDraw).st.cause = s.st.cause := rfl
@[simp] theorem State.endDraw_st_faultPc (s : State) : (s.endDraw).st.faultPc = s.st.faultPc := rfl
@[simp] theorem State.endDraw_st_faultRow (s : State) : (s.endDraw).st.faultRow = s.st.faultRow := rfl
@[simp] theorem State.endDraw_st_faultX (s : State) : (s.endDraw).st.faultX = s.st.faultX := rfl
@[simp] theorem State.endDraw_st_rowsDone (s : State) : (s.endDraw).st.rowsDone = s.st.rowsDone := rfl
@[simp] theorem State.endDraw_w (s : State) : (s.endDraw).w = s.w := rfl
@[simp] theorem State.endDraw_mem (s : State) : (s.endDraw).mem = s.mem := rfl
@[simp] theorem State.endDraw_phase (s : State) : (s.endDraw).phase = .idle := rfl
@[simp] theorem State.endDraw_pix (s : State) : (s.endDraw).pix = s.pix := rfl
@[simp] theorem State.endDraw_pending (s : State) : (s.endDraw).pending = s.pending := rfl
@[simp] theorem State.endDraw_rdData (s : State) : (s.endDraw).rdData = s.rdData := rfl

/-! ### `State.raise` -/

@[simp] theorem State.raise_cfg (s : State) (c : Cause) (pc row : Addr)
  (fx : Reg32) : (s.raise c pc row fx).cfg = s.cfg := by
  simp [State.raise]
@[simp] theorem State.raise_st_done (s : State) (c : Cause) (pc row : Addr)
  (fx : Reg32) : (s.raise c pc row fx).st.done = true := by
  simp [State.raise]
@[simp] theorem State.raise_st_cause (s : State) (c : Cause) (pc row : Addr)
  (fx : Reg32) : (s.raise c pc row fx).st.cause = if s.st.cause = .none then c else s.st.cause := by
  simp [State.raise]
@[simp] theorem State.raise_st_faultPc (s : State) (c : Cause) (pc row : Addr)
  (fx : Reg32) : (s.raise c pc row fx).st.faultPc = if s.st.cause = .none then pc else s.st.faultPc := by
  simp [State.raise]
@[simp] theorem State.raise_st_faultRow (s : State) (c : Cause) (pc row : Addr)
  (fx : Reg32) : (s.raise c pc row fx).st.faultRow = if s.st.cause = .none then row else s.st.faultRow := by
  simp [State.raise]
@[simp] theorem State.raise_st_faultX (s : State) (c : Cause) (pc row : Addr)
  (fx : Reg32) : (s.raise c pc row fx).st.faultX = if s.st.cause = .none then fx else s.st.faultX := by
  simp [State.raise]
@[simp] theorem State.raise_st_rowsDone (s : State) (c : Cause) (pc row : Addr)
  (fx : Reg32) : (s.raise c pc row fx).st.rowsDone = s.st.rowsDone := by
  simp [State.raise]
@[simp] theorem State.raise_w (s : State) (c : Cause) (pc row : Addr)
  (fx : Reg32) : (s.raise c pc row fx).w = s.w := by
  simp [State.raise]
@[simp] theorem State.raise_mem (s : State) (c : Cause) (pc row : Addr)
  (fx : Reg32) : (s.raise c pc row fx).mem = s.mem := by
  simp [State.raise]
@[simp] theorem State.raise_phase (s : State) (c : Cause) (pc row : Addr)
  (fx : Reg32) : (s.raise c pc row fx).phase = .idle := by
  simp [State.raise]
@[simp] theorem State.raise_pix (s : State) (c : Cause) (pc row : Addr)
  (fx : Reg32) : (s.raise c pc row fx).pix = s.pix := by
  simp [State.raise]
@[simp] theorem State.raise_pending (s : State) (c : Cause) (pc row : Addr)
  (fx : Reg32) : (s.raise c pc row fx).pending = s.pending := by
  simp [State.raise]
@[simp] theorem State.raise_rdData (s : State) (c : Cause) (pc row : Addr)
  (fx : Reg32) : (s.raise c pc row fx).rdData = s.rdData := by
  simp [State.raise]

/-! ### `State.raiseCfg` -/

@[simp] theorem State.raiseCfg_cfg (s : State) (c : Cause) : (s.raiseCfg c).cfg = s.cfg := by
  simp [State.raiseCfg]
@[simp] theorem State.raiseCfg_st_done (s : State) (c : Cause) : (s.raiseCfg c).st.done = true := by
  simp [State.raiseCfg]
@[simp] theorem State.raiseCfg_st_cause (s : State)
  (c : Cause) : (s.raiseCfg c).st.cause = if s.st.cause = .none then c else s.st.cause := by
  simp [State.raiseCfg]
@[simp] theorem State.raiseCfg_st_faultPc (s : State)
  (c : Cause) : (s.raiseCfg c).st.faultPc = if s.st.cause = .none then 0 else s.st.faultPc := by
  simp [State.raiseCfg]
@[simp] theorem State.raiseCfg_st_faultRow (s : State)
  (c : Cause) : (s.raiseCfg c).st.faultRow = if s.st.cause = .none then 0 else s.st.faultRow := by
  simp [State.raiseCfg]
@[simp] theorem State.raiseCfg_st_faultX (s : State)
  (c : Cause) : (s.raiseCfg c).st.faultX = if s.st.cause = .none then 0 else s.st.faultX := by
  simp [State.raiseCfg]
@[simp] theorem State.raiseCfg_st_rowsDone (s : State) (c : Cause) : (s.raiseCfg c).st.rowsDone = s.st.rowsDone := by
  simp [State.raiseCfg]
@[simp] theorem State.raiseCfg_w (s : State) (c : Cause) : (s.raiseCfg c).w = s.w := by
  simp [State.raiseCfg]
@[simp] theorem State.raiseCfg_mem (s : State) (c : Cause) : (s.raiseCfg c).mem = s.mem := by
  simp [State.raiseCfg]
@[simp] theorem State.raiseCfg_phase (s : State) (c : Cause) : (s.raiseCfg c).phase = .idle := by
  simp [State.raiseCfg]
@[simp] theorem State.raiseCfg_pix (s : State) (c : Cause) : (s.raiseCfg c).pix = s.pix := by
  simp [State.raiseCfg]
@[simp] theorem State.raiseCfg_pending (s : State) (c : Cause) : (s.raiseCfg c).pending = s.pending := by
  simp [State.raiseCfg]
@[simp] theorem State.raiseCfg_rdData (s : State) (c : Cause) : (s.raiseCfg c).rdData = s.rdData := by
  simp [State.raiseCfg]

/-! ### `State.raiseStream` -/

@[simp] theorem State.raiseStream_cfg (s : State) (c : Cause) (ctl : Byte)
  (x : Pos) : (s.raiseStream c ctl x).cfg = s.cfg := by
  simp [State.raiseStream]
@[simp] theorem State.raiseStream_st_done (s : State) (c : Cause) (ctl : Byte)
  (x : Pos) : (s.raiseStream c ctl x).st.done = true := by
  simp [State.raiseStream]
@[simp] theorem State.raiseStream_st_cause (s : State) (c : Cause) (ctl : Byte)
  (x : Pos) : (s.raiseStream c ctl x).st.cause = if s.st.cause = .none then c else s.st.cause := by
  simp [State.raiseStream]
@[simp] theorem State.raiseStream_st_faultPc (s : State) (c : Cause) (ctl : Byte)
  (x : Pos) : (s.raiseStream c ctl x).st.faultPc = if s.st.cause = .none then s.w.spAddr else s.st.faultPc := by
  simp [State.raiseStream]
@[simp] theorem State.raiseStream_st_faultRow (s : State) (c : Cause) (ctl : Byte)
  (x : Pos) : (s.raiseStream c ctl x).st.faultRow = if s.st.cause = .none then s.w.r else s.st.faultRow := by
  simp [State.raiseStream]
@[simp] theorem State.raiseStream_st_faultX (s : State) (c : Cause) (ctl : Byte)
  (x : Pos) : (s.raiseStream c ctl x).st.faultX = if s.st.cause = .none then faultXWord ctl x else s.st.faultX := by
  simp [State.raiseStream]
@[simp] theorem State.raiseStream_st_rowsDone (s : State) (c : Cause) (ctl : Byte)
  (x : Pos) : (s.raiseStream c ctl x).st.rowsDone = s.st.rowsDone := by
  simp [State.raiseStream]
@[simp] theorem State.raiseStream_w (s : State) (c : Cause) (ctl : Byte)
  (x : Pos) : (s.raiseStream c ctl x).w = s.w := by
  simp [State.raiseStream]
@[simp] theorem State.raiseStream_mem (s : State) (c : Cause) (ctl : Byte)
  (x : Pos) : (s.raiseStream c ctl x).mem = s.mem := by
  simp [State.raiseStream]
@[simp] theorem State.raiseStream_phase (s : State) (c : Cause) (ctl : Byte)
  (x : Pos) : (s.raiseStream c ctl x).phase = .idle := by
  simp [State.raiseStream]
@[simp] theorem State.raiseStream_pix (s : State) (c : Cause) (ctl : Byte)
  (x : Pos) : (s.raiseStream c ctl x).pix = s.pix := by
  simp [State.raiseStream]
@[simp] theorem State.raiseStream_pending (s : State) (c : Cause) (ctl : Byte)
  (x : Pos) : (s.raiseStream c ctl x).pending = s.pending := by
  simp [State.raiseStream]
@[simp] theorem State.raiseStream_rdData (s : State) (c : Cause) (ctl : Byte)
  (x : Pos) : (s.raiseStream c ctl x).rdData = s.rdData := by
  simp [State.raiseStream]

/-! ### `State.statusClear` -/

@[simp] theorem State.statusClear_cfg (s : State) (v : Reg32) : (s.statusClear v).cfg = s.cfg := by
  unfold State.statusClear; cases v.getLsbD 0 <;> cases v.getLsbD 1 <;> rfl
@[simp] theorem State.statusClear_st_done (s : State)
  (v : Reg32) : (s.statusClear v).st.done = if v.getLsbD 0 then false else s.st.done := by
  unfold State.statusClear; cases v.getLsbD 0 <;> cases v.getLsbD 1 <;> rfl
@[simp] theorem State.statusClear_st_cause (s : State)
  (v : Reg32) : (s.statusClear v).st.cause = if v.getLsbD 1 then .none else s.st.cause := by
  unfold State.statusClear; cases v.getLsbD 0 <;> cases v.getLsbD 1 <;> rfl
@[simp] theorem State.statusClear_st_faultPc (s : State)
  (v : Reg32) : (s.statusClear v).st.faultPc = if v.getLsbD 1 then 0 else s.st.faultPc := by
  unfold State.statusClear; cases v.getLsbD 0 <;> cases v.getLsbD 1 <;> rfl
@[simp] theorem State.statusClear_st_faultRow (s : State)
  (v : Reg32) : (s.statusClear v).st.faultRow = if v.getLsbD 1 then 0 else s.st.faultRow := by
  unfold State.statusClear; cases v.getLsbD 0 <;> cases v.getLsbD 1 <;> rfl
@[simp] theorem State.statusClear_st_faultX (s : State)
  (v : Reg32) : (s.statusClear v).st.faultX = if v.getLsbD 1 then 0 else s.st.faultX := by
  unfold State.statusClear; cases v.getLsbD 0 <;> cases v.getLsbD 1 <;> rfl
@[simp] theorem State.statusClear_st_rowsDone (s : State)
  (v : Reg32) : (s.statusClear v).st.rowsDone = s.st.rowsDone := by
  unfold State.statusClear; cases v.getLsbD 0 <;> cases v.getLsbD 1 <;> rfl
@[simp] theorem State.statusClear_w (s : State) (v : Reg32) : (s.statusClear v).w = s.w := by
  unfold State.statusClear; cases v.getLsbD 0 <;> cases v.getLsbD 1 <;> rfl
@[simp] theorem State.statusClear_mem (s : State) (v : Reg32) : (s.statusClear v).mem = s.mem := by
  unfold State.statusClear; cases v.getLsbD 0 <;> cases v.getLsbD 1 <;> rfl
@[simp] theorem State.statusClear_phase (s : State) (v : Reg32) : (s.statusClear v).phase = s.phase := by
  unfold State.statusClear; cases v.getLsbD 0 <;> cases v.getLsbD 1 <;> rfl
@[simp] theorem State.statusClear_pix (s : State) (v : Reg32) : (s.statusClear v).pix = s.pix := by
  unfold State.statusClear; cases v.getLsbD 0 <;> cases v.getLsbD 1 <;> rfl
@[simp] theorem State.statusClear_pending (s : State) (v : Reg32) : (s.statusClear v).pending = s.pending := by
  unfold State.statusClear; cases v.getLsbD 0 <;> cases v.getLsbD 1 <;> rfl
@[simp] theorem State.statusClear_rdData (s : State) (v : Reg32) : (s.statusClear v).rdData = s.rdData := by
  unfold State.statusClear; cases v.getLsbD 0 <;> cases v.getLsbD 1 <;> rfl

/-! ### `State.writeFb` -/

@[simp] theorem State.writeFb_cfg (s : State) (a : Addr) (v : Byte) : (s.writeFb a v).cfg = s.cfg := rfl
@[simp] theorem State.writeFb_st (s : State) (a : Addr) (v : Byte) : (s.writeFb a v).st = s.st := rfl
@[simp] theorem State.writeFb_w (s : State) (a : Addr) (v : Byte) : (s.writeFb a v).w = s.w := rfl
@[simp] theorem State.writeFb_mem (s : State) (a : Addr)
  (v : Byte) : (s.writeFb a v).mem = { s.mem with fb := s.mem.fb.write a.toNat v } := rfl
@[simp] theorem State.writeFb_phase (s : State) (a : Addr) (v : Byte) : (s.writeFb a v).phase = s.phase := rfl
@[simp] theorem State.writeFb_pix (s : State) (a : Addr) (v : Byte) : (s.writeFb a v).pix = s.pix := rfl
@[simp] theorem State.writeFb_pending (s : State) (a : Addr) (v : Byte) : (s.writeFb a v).pending = s.pending := rfl
@[simp] theorem State.writeFb_rdData (s : State) (a : Addr) (v : Byte) : (s.writeFb a v).rdData = s.rdData := rfl

/-! ### `State.pokeMaskWord` -/

@[simp] theorem State.pokeMaskWord_cfg (s : State) (i : MaskIndex)
  (u : MaskWord) : (s.pokeMaskWord i u).cfg = s.cfg := rfl
@[simp] theorem State.pokeMaskWord_st (s : State) (i : MaskIndex)
  (u : MaskWord) : (s.pokeMaskWord i u).st = s.st := rfl
@[simp] theorem State.pokeMaskWord_w (s : State) (i : MaskIndex) (u : MaskWord) : (s.pokeMaskWord i u).w = s.w := rfl
@[simp] theorem State.pokeMaskWord_mem (s : State) (i : MaskIndex)
  (u : MaskWord) : (s.pokeMaskWord i u).mem = { s.mem with msk := s.mem.msk.write i.toNat u } := rfl
@[simp] theorem State.pokeMaskWord_phase (s : State) (i : MaskIndex)
  (u : MaskWord) : (s.pokeMaskWord i u).phase = s.phase := rfl
@[simp] theorem State.pokeMaskWord_pix (s : State) (i : MaskIndex)
  (u : MaskWord) : (s.pokeMaskWord i u).pix = s.pix := rfl
@[simp] theorem State.pokeMaskWord_pending (s : State) (i : MaskIndex)
  (u : MaskWord) : (s.pokeMaskWord i u).pending = s.pending := rfl
@[simp] theorem State.pokeMaskWord_rdData (s : State) (i : MaskIndex)
  (u : MaskWord) : (s.pokeMaskWord i u).rdData = s.rdData := rfl

/-! ### `State.writeReg` -/

@[simp] theorem State.writeReg_cfg (s : State) (q : Reg) (v : Reg32) : (s.writeReg q v).cfg = s.cfg.write q v := rfl
@[simp] theorem State.writeReg_st (s : State) (q : Reg) (v : Reg32) : (s.writeReg q v).st = s.st := rfl
@[simp] theorem State.writeReg_w (s : State) (q : Reg) (v : Reg32) : (s.writeReg q v).w = s.w := rfl
@[simp] theorem State.writeReg_mem (s : State) (q : Reg) (v : Reg32) : (s.writeReg q v).mem = s.mem := rfl
@[simp] theorem State.writeReg_phase (s : State) (q : Reg) (v : Reg32) : (s.writeReg q v).phase = s.phase := rfl
@[simp] theorem State.writeReg_pix (s : State) (q : Reg) (v : Reg32) : (s.writeReg q v).pix = s.pix := rfl
@[simp] theorem State.writeReg_pending (s : State) (q : Reg) (v : Reg32) : (s.writeReg q v).pending = s.pending := rfl
@[simp] theorem State.writeReg_rdData (s : State) (q : Reg) (v : Reg32) : (s.writeReg q v).rdData = s.rdData := rfl

/-! ### `State.setRdData` -/

@[simp] theorem State.setRdData_cfg (s : State) (v : Reg32) : (s.setRdData v).cfg = s.cfg := rfl
@[simp] theorem State.setRdData_st (s : State) (v : Reg32) : (s.setRdData v).st = s.st := rfl
@[simp] theorem State.setRdData_w (s : State) (v : Reg32) : (s.setRdData v).w = s.w := rfl
@[simp] theorem State.setRdData_mem (s : State) (v : Reg32) : (s.setRdData v).mem = s.mem := rfl
@[simp] theorem State.setRdData_phase (s : State) (v : Reg32) : (s.setRdData v).phase = s.phase := rfl
@[simp] theorem State.setRdData_pix (s : State) (v : Reg32) : (s.setRdData v).pix = s.pix := rfl
@[simp] theorem State.setRdData_pending (s : State) (v : Reg32) : (s.setRdData v).pending = s.pending := rfl
@[simp] theorem State.setRdData_rdData (s : State) (v : Reg32) : (s.setRdData v).rdData = v := rfl

/-! ### `State.setPending` -/

@[simp] theorem State.setPending_cfg (s : State) (q : List HostAction) : (s.setPending q).cfg = s.cfg := rfl
@[simp] theorem State.setPending_st (s : State) (q : List HostAction) : (s.setPending q).st = s.st := rfl
@[simp] theorem State.setPending_w (s : State) (q : List HostAction) : (s.setPending q).w = s.w := rfl
@[simp] theorem State.setPending_mem (s : State) (q : List HostAction) : (s.setPending q).mem = s.mem := rfl
@[simp] theorem State.setPending_phase (s : State) (q : List HostAction) : (s.setPending q).phase = s.phase := rfl
@[simp] theorem State.setPending_pix (s : State) (q : List HostAction) : (s.setPending q).pix = s.pix := rfl
@[simp] theorem State.setPending_pending (s : State) (q : List HostAction) : (s.setPending q).pending = q := rfl
@[simp] theorem State.setPending_rdData (s : State) (q : List HostAction) : (s.setPending q).rdData = s.rdData := rfl

/-! ### `State.clearForDraw` -/

@[simp] theorem State.clearForDraw_cfg (s : State) : (s.clearForDraw).cfg = s.cfg := rfl
@[simp] theorem State.clearForDraw_st_done (s : State) : (s.clearForDraw).st.done = false := rfl
@[simp] theorem State.clearForDraw_st_cause (s : State) : (s.clearForDraw).st.cause = s.st.cause := rfl
@[simp] theorem State.clearForDraw_st_faultPc (s : State) : (s.clearForDraw).st.faultPc = s.st.faultPc := rfl
@[simp] theorem State.clearForDraw_st_faultRow (s : State) : (s.clearForDraw).st.faultRow = s.st.faultRow := rfl
@[simp] theorem State.clearForDraw_st_faultX (s : State) : (s.clearForDraw).st.faultX = s.st.faultX := rfl
@[simp] theorem State.clearForDraw_st_rowsDone (s : State) : (s.clearForDraw).st.rowsDone = 0 := rfl
@[simp] theorem State.clearForDraw_w (s : State) : (s.clearForDraw).w = s.w := rfl
@[simp] theorem State.clearForDraw_mem (s : State) : (s.clearForDraw).mem = s.mem := rfl
@[simp] theorem State.clearForDraw_phase (s : State) : (s.clearForDraw).phase = s.phase := rfl
@[simp] theorem State.clearForDraw_pix (s : State) : (s.clearForDraw).pix = s.pix := rfl
@[simp] theorem State.clearForDraw_pending (s : State) : (s.clearForDraw).pending = s.pending := rfl
@[simp] theorem State.clearForDraw_rdData (s : State) : (s.clearForDraw).rdData = s.rdData := rfl

/-! ### `State.beginDraw` -/

@[simp] theorem State.beginDraw_cfg (s : State) : (s.beginDraw).cfg = s.cfg := rfl
@[simp] theorem State.beginDraw_st (s : State) : (s.beginDraw).st = s.st := rfl
@[simp] theorem State.beginDraw_w_sp (s : State) : (s.beginDraw).w.sp = s.cfg.srcAddr.setWidth (Config.AW + 1) := rfl
@[simp] theorem State.beginDraw_w_send (s : State) : (s.beginDraw).w.send = s.cfg.extentEnd := rfl
@[simp] theorem State.beginDraw_w_drow (s : State) : (s.beginDraw).w.drow = s.cfg.dstAddr := rfl
@[simp] theorem State.beginDraw_w_r (s : State) : (s.beginDraw).w.r = 0 := rfl
@[simp] theorem State.beginDraw_w_x (s : State) : (s.beginDraw).w.x = s.w.x := rfl
@[simp] theorem State.beginDraw_w_mw (s : State) : (s.beginDraw).w.mw = s.w.mw := rfl
@[simp] theorem State.beginDraw_w_vis (s : State) : (s.beginDraw).w.vis = s.w.vis := rfl
@[simp] theorem State.beginDraw_w_p0 (s : State) : (s.beginDraw).w.p0 = s.cfg.dstAddr.getLsbD 0 := rfl
@[simp] theorem State.beginDraw_w_runKind (s : State) : (s.beginDraw).w.runKind = s.w.runKind := rfl
@[simp] theorem State.beginDraw_w_runLen (s : State) : (s.beginDraw).w.runLen = s.w.runLen := rfl
@[simp] theorem State.beginDraw_w_runSrc (s : State) : (s.beginDraw).w.runSrc = s.w.runSrc := rfl
@[simp] theorem State.beginDraw_mem (s : State) : (s.beginDraw).mem = s.mem := rfl
@[simp] theorem State.beginDraw_phase (s : State) : (s.beginDraw).phase = .rowTop := rfl
@[simp] theorem State.beginDraw_pix (s : State) : (s.beginDraw).pix = s.pix := rfl
@[simp] theorem State.beginDraw_pending (s : State) : (s.beginDraw).pending = s.pending := rfl
@[simp] theorem State.beginDraw_rdData (s : State) : (s.beginDraw).rdData = s.rdData := rfl

/-! ### `State.startDraw` -/

@[simp] theorem State.startDraw_cfg (s : State) : (s.startDraw).cfg = s.cfg := by
  by_cases h : s.cfg.startCheck = .none <;> simp [State.startDraw, h]
@[simp] theorem State.startDraw_st_done (s : State) : (s.startDraw).st.done = decide (s.cfg.startCheck ≠ .none) := by
  by_cases h : s.cfg.startCheck = .none <;> simp [State.startDraw, h]
@[simp] theorem State.startDraw_st_cause (s : State) : (s.startDraw).st.cause = if s.st.cause = .none then
  s.cfg.startCheck else s.st.cause := by
  by_cases h : s.cfg.startCheck = .none
  · simp [State.startDraw, h]
  · simp only [State.startDraw, h, if_false, State.raiseCfg_st_cause]; rfl
@[simp] theorem State.startDraw_st_rowsDone (s : State) : (s.startDraw).st.rowsDone = 0 := by
  by_cases h : s.cfg.startCheck = .none <;> simp [State.startDraw, h]
@[simp] theorem State.startDraw_mem (s : State) : (s.startDraw).mem = s.mem := by
  by_cases h : s.cfg.startCheck = .none <;> simp [State.startDraw, h]
@[simp] theorem State.startDraw_phase (s : State) : (s.startDraw).phase = if s.cfg.startCheck = .none then .rowTop
  else .idle := by
  by_cases h : s.cfg.startCheck = .none <;> simp [State.startDraw, h]
@[simp] theorem State.startDraw_pix (s : State) : (s.startDraw).pix = s.pix := by
  by_cases h : s.cfg.startCheck = .none <;> simp [State.startDraw, h]
@[simp] theorem State.startDraw_pending (s : State) : (s.startDraw).pending = s.pending := by
  by_cases h : s.cfg.startCheck = .none <;> simp [State.startDraw, h]
@[simp] theorem State.startDraw_rdData (s : State) : (s.startDraw).rdData = s.rdData := by
  by_cases h : s.cfg.startCheck = .none <;> simp [State.startDraw, h]

/-! ### `State.beginRow` -/

@[simp] theorem State.beginRow_cfg (s : State) (u : MaskWord) : (s.beginRow u).cfg = s.cfg := rfl
@[simp] theorem State.beginRow_st (s : State) (u : MaskWord) : (s.beginRow u).st = s.st := rfl
@[simp] theorem State.beginRow_w_sp (s : State) (u : MaskWord) : (s.beginRow u).w.sp = s.w.sp := rfl
@[simp] theorem State.beginRow_w_send (s : State) (u : MaskWord) : (s.beginRow u).w.send = s.w.send := rfl
@[simp] theorem State.beginRow_w_drow (s : State) (u : MaskWord) : (s.beginRow u).w.drow = s.w.drow := rfl
@[simp] theorem State.beginRow_w_r (s : State) (u : MaskWord) : (s.beginRow u).w.r = s.w.r := rfl
@[simp] theorem State.beginRow_w_x (s : State) (u : MaskWord) : (s.beginRow u).w.x = 0 := rfl
@[simp] theorem State.beginRow_w_mw (s : State) (u : MaskWord) : (s.beginRow u).w.mw = u := rfl
@[simp] theorem State.beginRow_w_vis (s : State) (u : MaskWord) : (s.beginRow u).w.vis = s.rowVisible := rfl
@[simp] theorem State.beginRow_w_p0 (s : State) (u : MaskWord) : (s.beginRow u).w.p0 = s.w.p0 := rfl
@[simp] theorem State.beginRow_w_runKind (s : State) (u : MaskWord) : (s.beginRow u).w.runKind = s.w.runKind := rfl
@[simp] theorem State.beginRow_w_runLen (s : State) (u : MaskWord) : (s.beginRow u).w.runLen = s.w.runLen := rfl
@[simp] theorem State.beginRow_w_runSrc (s : State) (u : MaskWord) : (s.beginRow u).w.runSrc = s.w.runSrc := rfl
@[simp] theorem State.beginRow_mem (s : State) (u : MaskWord) : (s.beginRow u).mem = s.mem := rfl
@[simp] theorem State.beginRow_phase (s : State) (u : MaskWord) : (s.beginRow u).phase = .opcode := rfl
@[simp] theorem State.beginRow_pix (s : State) (u : MaskWord) : (s.beginRow u).pix = s.pix := rfl
@[simp] theorem State.beginRow_pending (s : State) (u : MaskWord) : (s.beginRow u).pending = s.pending := rfl
@[simp] theorem State.beginRow_rdData (s : State) (u : MaskWord) : (s.beginRow u).rdData = s.rdData := rfl

/-! ### `State.endRow` -/

@[simp] theorem State.endRow_cfg (s : State) : (s.endRow).cfg = s.cfg := rfl
@[simp] theorem State.endRow_st_done (s : State) : (s.endRow).st.done = s.st.done := rfl
@[simp] theorem State.endRow_st_cause (s : State) : (s.endRow).st.cause = s.st.cause := rfl
@[simp] theorem State.endRow_st_faultPc (s : State) : (s.endRow).st.faultPc = s.st.faultPc := rfl
@[simp] theorem State.endRow_st_faultRow (s : State) : (s.endRow).st.faultRow = s.st.faultRow := rfl
@[simp] theorem State.endRow_st_faultX (s : State) : (s.endRow).st.faultX = s.st.faultX := rfl
@[simp] theorem State.endRow_st_rowsDone (s : State) : (s.endRow).st.rowsDone = s.st.rowsDone + 1 := rfl
@[simp] theorem State.endRow_w_sp (s : State) : (s.endRow).w.sp = s.w.sp := rfl
@[simp] theorem State.endRow_w_send (s : State) : (s.endRow).w.send = s.w.send := rfl
@[simp] theorem State.endRow_w_drow (s : State) : (s.endRow).w.drow = s.w.drow - s.cfg.pitch := rfl
@[simp] theorem State.endRow_w_r (s : State) : (s.endRow).w.r = s.w.r + 1 := rfl
@[simp] theorem State.endRow_w_x (s : State) : (s.endRow).w.x = s.w.x := rfl
@[simp] theorem State.endRow_w_mw (s : State) : (s.endRow).w.mw = s.w.mw := rfl
@[simp] theorem State.endRow_w_vis (s : State) : (s.endRow).w.vis = s.w.vis := rfl
@[simp] theorem State.endRow_w_p0 (s : State) : (s.endRow).w.p0 = s.w.p0 := rfl
@[simp] theorem State.endRow_w_runKind (s : State) : (s.endRow).w.runKind = s.w.runKind := rfl
@[simp] theorem State.endRow_w_runLen (s : State) : (s.endRow).w.runLen = s.w.runLen := rfl
@[simp] theorem State.endRow_w_runSrc (s : State) : (s.endRow).w.runSrc = s.w.runSrc := rfl
@[simp] theorem State.endRow_mem (s : State) : (s.endRow).mem = s.mem := rfl
@[simp] theorem State.endRow_phase (s : State) : (s.endRow).phase = .rowTop := rfl
@[simp] theorem State.endRow_pix (s : State) : (s.endRow).pix = s.pix := rfl
@[simp] theorem State.endRow_pending (s : State) : (s.endRow).pending = s.pending := rfl
@[simp] theorem State.endRow_rdData (s : State) : (s.endRow).rdData = s.rdData := rfl

/-! ### `State.beginRun` -/

@[simp] theorem State.beginRun_cfg (s : State) (n : Pos) (a : Addr) : (s.beginRun n a).cfg = s.cfg := rfl
@[simp] theorem State.beginRun_st (s : State) (n : Pos) (a : Addr) : (s.beginRun n a).st = s.st := rfl
@[simp] theorem State.beginRun_w_sp (s : State) (n : Pos) (a : Addr) : (s.beginRun n a).w.sp = s.w.sp := rfl
@[simp] theorem State.beginRun_w_send (s : State) (n : Pos) (a : Addr) : (s.beginRun n a).w.send = s.w.send := rfl
@[simp] theorem State.beginRun_w_drow (s : State) (n : Pos) (a : Addr) : (s.beginRun n a).w.drow = s.w.drow := rfl
@[simp] theorem State.beginRun_w_r (s : State) (n : Pos) (a : Addr) : (s.beginRun n a).w.r = s.w.r := rfl
@[simp] theorem State.beginRun_w_x (s : State) (n : Pos) (a : Addr) : (s.beginRun n a).w.x = s.w.x := rfl
@[simp] theorem State.beginRun_w_mw (s : State) (n : Pos) (a : Addr) : (s.beginRun n a).w.mw = s.w.mw := rfl
@[simp] theorem State.beginRun_w_vis (s : State) (n : Pos) (a : Addr) : (s.beginRun n a).w.vis = s.w.vis := rfl
@[simp] theorem State.beginRun_w_p0 (s : State) (n : Pos) (a : Addr) : (s.beginRun n a).w.p0 = s.w.p0 := rfl
@[simp] theorem State.beginRun_w_runKind (s : State) (n : Pos)
  (a : Addr) : (s.beginRun n a).w.runKind = .literal := rfl
@[simp] theorem State.beginRun_w_runLen (s : State) (n : Pos) (a : Addr) : (s.beginRun n a).w.runLen = n := rfl
@[simp] theorem State.beginRun_w_runSrc (s : State) (n : Pos) (a : Addr) : (s.beginRun n a).w.runSrc = a := rfl
@[simp] theorem State.beginRun_mem (s : State) (n : Pos) (a : Addr) : (s.beginRun n a).mem = s.mem := rfl
@[simp] theorem State.beginRun_phase (s : State) (n : Pos) (a : Addr) : (s.beginRun n a).phase = .run := rfl
@[simp] theorem State.beginRun_pix (s : State) (n : Pos) (a : Addr) : (s.beginRun n a).pix = 0 := rfl
@[simp] theorem State.beginRun_pending (s : State) (n : Pos) (a : Addr) : (s.beginRun n a).pending = s.pending := rfl
@[simp] theorem State.beginRun_rdData (s : State) (n : Pos) (a : Addr) : (s.beginRun n a).rdData = s.rdData := rfl

/-! ### `State.skipRun` -/

@[simp] theorem State.skipRun_cfg (s : State) (n : Pos) : (s.skipRun n).cfg = s.cfg := rfl
@[simp] theorem State.skipRun_st (s : State) (n : Pos) : (s.skipRun n).st = s.st := rfl
@[simp] theorem State.skipRun_w_sp (s : State) (n : Pos) : (s.skipRun n).w.sp = s.w.sp + 1 := rfl
@[simp] theorem State.skipRun_w_send (s : State) (n : Pos) : (s.skipRun n).w.send = s.w.send := rfl
@[simp] theorem State.skipRun_w_drow (s : State) (n : Pos) : (s.skipRun n).w.drow = s.w.drow := rfl
@[simp] theorem State.skipRun_w_r (s : State) (n : Pos) : (s.skipRun n).w.r = s.w.r := rfl
@[simp] theorem State.skipRun_w_x (s : State) (n : Pos) : (s.skipRun n).w.x = s.w.x + n := rfl
@[simp] theorem State.skipRun_w_mw (s : State) (n : Pos) : (s.skipRun n).w.mw = s.w.mw := rfl
@[simp] theorem State.skipRun_w_vis (s : State) (n : Pos) : (s.skipRun n).w.vis = s.w.vis := rfl
@[simp] theorem State.skipRun_w_p0 (s : State) (n : Pos) : (s.skipRun n).w.p0 = s.w.p0 := rfl
@[simp] theorem State.skipRun_w_runKind (s : State) (n : Pos) : (s.skipRun n).w.runKind = .skip := rfl
@[simp] theorem State.skipRun_w_runLen (s : State) (n : Pos) : (s.skipRun n).w.runLen = n := rfl
@[simp] theorem State.skipRun_w_runSrc (s : State) (n : Pos) : (s.skipRun n).w.runSrc = s.w.runSrc := rfl
@[simp] theorem State.skipRun_mem (s : State) (n : Pos) : (s.skipRun n).mem = s.mem := rfl
@[simp] theorem State.skipRun_phase (s : State) (n : Pos) : (s.skipRun n).phase = s.phase := rfl
@[simp] theorem State.skipRun_pix (s : State) (n : Pos) : (s.skipRun n).pix = s.pix := rfl
@[simp] theorem State.skipRun_pending (s : State) (n : Pos) : (s.skipRun n).pending = s.pending := rfl
@[simp] theorem State.skipRun_rdData (s : State) (n : Pos) : (s.skipRun n).rdData = s.rdData := rfl

/-! ### `State.endRun` -/

@[simp] theorem State.endRun_cfg (s : State) : (s.endRun).cfg = s.cfg := by
  unfold State.endRun; split <;> rfl
@[simp] theorem State.endRun_st (s : State) : (s.endRun).st = s.st := by
  unfold State.endRun; split <;> rfl
@[simp] theorem State.endRun_w_sp (s : State) : (s.endRun).w.sp = if s.cfg.opaqueFmt then s.w.sp +
  s.cfg.width.setWidth (Config.AW + 1) else s.w.sp + 1 + s.w.runLen.setWidth (Config.AW + 1) := by
  unfold State.endRun; split <;> rfl
@[simp] theorem State.endRun_w_send (s : State) : (s.endRun).w.send = s.w.send := by
  unfold State.endRun; split <;> rfl
@[simp] theorem State.endRun_w_drow (s : State) : (s.endRun).w.drow = s.w.drow := by
  unfold State.endRun; split <;> rfl
@[simp] theorem State.endRun_w_r (s : State) : (s.endRun).w.r = s.w.r := by
  unfold State.endRun; split <;> rfl
@[simp] theorem State.endRun_w_x (s : State) : (s.endRun).w.x = if s.cfg.opaqueFmt then s.cfg.width else s.w.x +
  s.w.runLen := by
  unfold State.endRun; split <;> rfl
@[simp] theorem State.endRun_w_mw (s : State) : (s.endRun).w.mw = s.w.mw := by
  unfold State.endRun; split <;> rfl
@[simp] theorem State.endRun_w_vis (s : State) : (s.endRun).w.vis = s.w.vis := by
  unfold State.endRun; split <;> rfl
@[simp] theorem State.endRun_w_p0 (s : State) : (s.endRun).w.p0 = s.w.p0 := by
  unfold State.endRun; split <;> rfl
@[simp] theorem State.endRun_w_runKind (s : State) : (s.endRun).w.runKind = s.w.runKind := by
  unfold State.endRun; split <;> rfl
@[simp] theorem State.endRun_w_runLen (s : State) : (s.endRun).w.runLen = s.w.runLen := by
  unfold State.endRun; split <;> rfl
@[simp] theorem State.endRun_w_runSrc (s : State) : (s.endRun).w.runSrc = s.w.runSrc := by
  unfold State.endRun; split <;> rfl
@[simp] theorem State.endRun_mem (s : State) : (s.endRun).mem = s.mem := by
  unfold State.endRun; split <;> rfl
@[simp] theorem State.endRun_phase (s : State) : (s.endRun).phase = .opcode := by
  unfold State.endRun; split <;> rfl
@[simp] theorem State.endRun_pix (s : State) : (s.endRun).pix = s.pix := by
  unfold State.endRun; split <;> rfl
@[simp] theorem State.endRun_pending (s : State) : (s.endRun).pending = s.pending := by
  unfold State.endRun; split <;> rfl
@[simp] theorem State.endRun_rdData (s : State) : (s.endRun).rdData = s.rdData := by
  unfold State.endRun; split <;> rfl

/-! ### `State.nextPixel` -/

@[simp] theorem State.nextPixel_cfg (s : State) : (s.nextPixel).cfg = s.cfg := by
  unfold State.nextPixel; split <;> simp
@[simp] theorem State.nextPixel_st (s : State) : (s.nextPixel).st = s.st := by
  unfold State.nextPixel; split <;> simp
@[simp] theorem State.nextPixel_w_sp (s : State) : (s.nextPixel).w.sp = if s.pix + 1 = s.w.runLen then s.endRun.w.sp
  else s.w.sp := by
  unfold State.nextPixel; split <;> simp
@[simp] theorem State.nextPixel_w_send (s : State) : (s.nextPixel).w.send = s.w.send := by
  unfold State.nextPixel; split <;> simp
@[simp] theorem State.nextPixel_w_drow (s : State) : (s.nextPixel).w.drow = s.w.drow := by
  unfold State.nextPixel; split <;> simp
@[simp] theorem State.nextPixel_w_r (s : State) : (s.nextPixel).w.r = s.w.r := by
  unfold State.nextPixel; split <;> simp
@[simp] theorem State.nextPixel_w_x (s : State) : (s.nextPixel).w.x = if s.pix + 1 = s.w.runLen then s.endRun.w.x
  else s.w.x := by
  unfold State.nextPixel; split <;> simp
@[simp] theorem State.nextPixel_w_mw (s : State) : (s.nextPixel).w.mw = s.w.mw := by
  unfold State.nextPixel; split <;> simp
@[simp] theorem State.nextPixel_w_vis (s : State) : (s.nextPixel).w.vis = s.w.vis := by
  unfold State.nextPixel; split <;> simp
@[simp] theorem State.nextPixel_w_p0 (s : State) : (s.nextPixel).w.p0 = s.w.p0 := by
  unfold State.nextPixel; split <;> simp
@[simp] theorem State.nextPixel_w_runKind (s : State) : (s.nextPixel).w.runKind = s.w.runKind := by
  unfold State.nextPixel; split <;> simp
@[simp] theorem State.nextPixel_w_runLen (s : State) : (s.nextPixel).w.runLen = s.w.runLen := by
  unfold State.nextPixel; split <;> simp
@[simp] theorem State.nextPixel_w_runSrc (s : State) : (s.nextPixel).w.runSrc = s.w.runSrc := by
  unfold State.nextPixel; split <;> simp
@[simp] theorem State.nextPixel_mem (s : State) : (s.nextPixel).mem = s.mem := by
  unfold State.nextPixel; split <;> simp
@[simp] theorem State.nextPixel_phase (s : State) : (s.nextPixel).phase = if s.pix + 1 = s.w.runLen then .opcode
  else s.phase := by
  unfold State.nextPixel; split <;> simp
@[simp] theorem State.nextPixel_pix (s : State) : (s.nextPixel).pix = if s.pix + 1 = s.w.runLen then s.pix else
  s.pix + 1 := by
  unfold State.nextPixel; split <;> simp
@[simp] theorem State.nextPixel_pending (s : State) : (s.nextPixel).pending = s.pending := by
  unfold State.nextPixel; split <;> simp
@[simp] theorem State.nextPixel_rdData (s : State) : (s.nextPixel).rdData = s.rdData := by
  unfold State.nextPixel; split <;> simp

end Sys2Proof.Machine
end

