-- ==== Sys2Proof/Laws/Ops.lean ====
section
/-! SUPPORT. What each shared operation, each meaning and the step can do, said once. -/

namespace Sys2Proof.Machine

/-- Going on with a value answers only through the value. -/
theorem withValue_eq_next {α : Type} {r : Except Fault α} {k : α → Host.Outcome State Fault Refusal} {t : State} :
    withValue r k = .next t ↔ ∃ v, r = .ok v ∧ k v = .next t := by
  cases r <;> simp [withValue]

@[simp] theorem withValue_ok {α : Type} (v : α) (k : α → Host.Outcome State Fault Refusal) :
    withValue (.ok v) k = k v := rfl

@[simp] theorem withValue_error {α : Type} (f : Fault) (k : α → Host.Outcome State Fault Refusal) :
    withValue (.error f) k = .fault f := rfl

/-- Fault entry when no record stands: it is latched (R134). -/
theorem State.raise_first {s : State} (h : s.st.cause = .none) (c : Cause) (pc row : Addr) (fx : Reg32) :
    s.raise c pc row fx =
      { s with st := { s.st with done := true, cause := c, faultPc := pc, faultRow := row, faultX := fx }
               phase := .idle } := by
  simp [State.raise, State.latchFault, h, State.endDraw, State.setDone]

/-- Fault entry when a record stands: it is kept (R134, R137). -/
theorem State.raise_later {s : State} (h : s.st.cause ≠ .none) (c : Cause) (pc row : Addr) (fx : Reg32) :
    s.raise c pc row fx = s.endDraw := by
  simp [State.raise, State.latchFault, h]

/-- Fault entry as one fact: what it changes and what it leaves (R134). -/
theorem State.raise_faultEntry (s : State) (c : Cause) (pc row : Addr) (fx : Reg32) :
    FaultEntry s (s.raise c pc row fx) c pc row fx where
  ended := by simp
  done := by simp
  latched h := by simp [h]
  kept h := by simp [h]
  rowsDone := by simp
  cfg := by simp
  work := by simp
  mem := by simp
  pix := by simp
  pending := by simp
  rdData := by simp

/-- The record of a stream fault, its fields as numbers (R29). -/
theorem State.raiseStream_faultEntry (s : State) (c : Cause) (ctl : Byte) (x : Pos) :
    FaultEntry s (s.raiseStream c ctl x) c (BitVec.ofNat 32 s.w.sp.toNat) s.w.r
      (BitVec.ofNat 32 (ctl.toNat * 65536 + x.toNat)) := by
  have hpc : s.w.spAddr = BitVec.ofNat 32 s.w.sp.toNat := by
    apply BitVec.eq_of_toNat_eq
    simp [WorkRegs.spAddr]
  have hfx : faultXWord ctl x = BitVec.ofNat 32 (ctl.toNat * 65536 + x.toNat) := by
    apply BitVec.eq_of_toNat_eq
    have h₁ := ctl.isLt
    have h₂ := x.isLt
    simp only [faultXWord, BitVec.toNat_append, BitVec.toNat_ofNat, Config.WIDTH_BITS, Config.PIXW] at *
    rw [← Nat.shiftLeft_add_eq_or_of_lt (by omega), Nat.shiftLeft_eq]
    have h₃ : (0 % 2 ^ 8) <<< 8 ||| ctl.toNat = ctl.toNat := by simp
    have h₄ : (x.setWidth 16).toNat = x.toNat := by simp
    omega
  rw [← hpc, ← hfx]
  exact s.raise_faultEntry c _ _ _

/-- A start check that fails is one of the six configuration faults (R130, R131). -/
theorem ConfigRegs.startCheck_range (c : ConfigRegs) :
    c.startCheck ∈ [Cause.none, .cfgFmt, .cfgMode, .cfgLtsel, .cfgWidth, .cfgMask, .cfgRange] := by
  unfold ConfigRegs.startCheck
  repeat' split
  all_goals simp

/-- The checks of a configuration that `START` accepts, one by one (R124). -/
theorem ConfigRegs.startCheck_none {c : ConfigRegs} (h : c.startCheck = .none) :
    (c.fmt ≠ 2#2 ∧ c.fmt ≠ 3#2) ∧ c.mode ≠ 3#2 ∧ c.ltsel < 20#5 ∧ c.width ≠ 0 ∧
    (c.maskEn = true → c.width.toNat ≤ Config.MASK_W ∧ c.maskAddr.toNat + Config.NMROWS ≤ Config.MSK_WORDS) ∧
    c.extentEnd.toNat ≤ 2 ^ Config.AW ∧ c.fbLo ≤ c.fbHi := by
  unfold ConfigRegs.startCheck at h
  split at h; · simp at h
  split at h; · simp at h
  split at h; · simp at h
  split at h; · simp at h
  split at h; · simp at h
  split at h; · simp at h
  rename_i h₁ h₂ h₃ h₄ h₅ h₆
  refine ⟨by simpa using h₁, h₂, BitVec.not_le.1 h₃, h₄, fun hm => ?_, ?_⟩
  · simp only [hm, true_and, not_or, Nat.not_lt] at h₅
    exact h₅
  · simp only [not_or, Nat.not_lt, BitVec.not_lt] at h₆
    exact h₆

/-- `SEND` is the sum, which does not wrap in `AW + 1` bits (R125). -/
theorem ConfigRegs.extentEnd_toNat (c : ConfigRegs) : c.extentEnd.toNat = c.srcAddr.toNat + c.srcLen.toNat := by
  have h₁ := c.srcAddr.isLt
  have h₂ := c.srcLen.isLt
  simp only [ConfigRegs.extentEnd, BitVec.toNat_add, BitVec.toNat_setWidth, Config.AW] at *
  omega

/-! ## Numbers for the fields -/

theorem litLen_toNat (m : BitVec 7) : (litLen m).toNat = m.toNat := by
  have := m.isLt
  simp only [litLen, BitVec.toNat_setWidth, Config.WIDTH_BITS]
  omega

theorem skipLen_toNat (m : BitVec 7) : (skipLen m).toNat = 128 - m.toNat := by
  revert m
  decide

theorem controlByte_toNat (k : Bool) (m : BitVec 7) :
    (controlByte k m).toNat = (if k then 128 else 0) + m.toNat := by
  revert k m
  decide

theorem ConfigRegs.inFb_iff {c : ConfigRegs} {a : Addr} :
    c.inFb a = true ↔ c.fbLo.toNat ≤ a.toNat ∧ a.toNat < c.fbHi.toNat := by
  simp [ConfigRegs.inFb, BitVec.le_def, BitVec.lt_def]

theorem ConfigRegs.opaqueFmt_iff {c : ConfigRegs} : c.opaqueFmt = true ↔ c.fmt = 0#2 := by
  simp [ConfigRegs.opaqueFmt]

theorem ConfigRegs.opaqueFmt_eq_false {c : ConfigRegs} : c.opaqueFmt = false ↔ c.fmt ≠ 0#2 := by
  simp [ConfigRegs.opaqueFmt]

/-- The last pixel of a run, in numbers. -/
theorem State.lastPixel_iff {s : State} (h : s.pix.toNat < s.w.runLen.toNat) :
    s.pix + 1 = s.w.runLen ↔ s.pix.toNat + 1 = s.w.runLen.toNat := by
  have hl := s.w.runLen.isLt
  rw [← BitVec.toNat_inj]
  simp only [BitVec.toNat_add, Config.WIDTH_BITS] at *
  simp
  omega

/-! ## The meanings -/

/-- `LIT` answers in every state, in one of three ways (R78, R82). -/
theorem execLit_cases (m : BitVec 7) (s : State) :
    (s.cfg.width - s.w.x < litLen m ∧
      execLit m s = .next (s.raiseStream .streamOverrun (controlByte false m) s.w.x)) ∨
    (¬ s.cfg.width - s.w.x < litLen m ∧ s.w.send - (s.w.sp + 1) < (litLen m).setWidth (Config.AW + 1) ∧
      execLit m s = .next (s.raiseStream .streamTrunc (controlByte false m) s.w.x)) ∨
    (¬ s.cfg.width - s.w.x < litLen m ∧ ¬ s.w.send - (s.w.sp + 1) < (litLen m).setWidth (Config.AW + 1) ∧
      execLit m s = .next (s.beginRun (litLen m) ((s.w.sp + 1).setWidth Config.AW))) := by
  by_cases h₁ : s.cfg.width - s.w.x < litLen m
  · exact .inl ⟨h₁, by simp only [execLit, if_pos h₁]⟩
  · by_cases h₂ : s.w.send - (s.w.sp + 1) < (litLen m).setWidth (Config.AW + 1)
    · exact .inr (.inl ⟨h₁, h₂, by simp only [execLit, if_neg h₁, if_pos h₂]⟩)
    · exact .inr (.inr ⟨h₁, h₂, by simp only [execLit, if_neg h₁, if_neg h₂]⟩)

/-- `SKIP` answers in every state, in one of two ways (R79). -/
theorem execSkip_cases (m : BitVec 7) (s : State) :
    (s.cfg.width - s.w.x < skipLen m ∧
      execSkip m s = .next (s.raiseStream .streamOverrun (controlByte true m) s.w.x)) ∨
    (¬ s.cfg.width - s.w.x < skipLen m ∧ execSkip m s = .next (s.skipRun (skipLen m))) := by
  by_cases h₁ : s.cfg.width - s.w.x < skipLen m
  · exact .inl ⟨h₁, by simp only [execSkip, if_pos h₁]⟩
  · exact .inr ⟨h₁, by simp only [execSkip, if_neg h₁]⟩

/-- `RAWROW` answers in every state, in one of two ways (R81). -/
theorem execRawrow_cases (s : State) :
    (s.w.send - s.w.sp < s.cfg.width.setWidth (Config.AW + 1) ∧
      execRawrow s = .next (s.raiseStream .streamTrunc 0#8 0)) ∨
    (¬ s.w.send - s.w.sp < s.cfg.width.setWidth (Config.AW + 1) ∧
      execRawrow s = .next (s.beginRun s.cfg.width s.w.spAddr)) := by
  by_cases h₁ : s.w.send - s.w.sp < s.cfg.width.setWidth (Config.AW + 1)
  · exact .inl ⟨h₁, by simp only [execRawrow, if_pos h₁]⟩
  · exact .inr ⟨h₁, by simp only [execRawrow, if_neg h₁]⟩

/-- A pixel operation that answers has stored one byte at the pixel's address, or nothing (R112 to R116). -/
theorem exec_psel_next {p : BitVec 4} {i : Instr} {s t : State} (hi : decodePsel p = .ok i) (h : exec i s = .next t) :
    t = s ∨ ∃ v, t = s.writeFb s.pixAddr v := by
  unfold decodePsel at hi
  dsimp only at hi
  have copy : ∀ b, exec (.pixCopy b) s = .next t → ∃ v, t = s.writeFb s.pixAddr v := fun b h => by
    obtain ⟨v, -, h⟩ := withValue_eq_next.1 h
    exact ⟨v, (Host.Outcome.next.inj h).symm⟩
  have remap : ∀ b, exec (.pixRemap b) s = .next t → ∃ v, t = s.writeFb s.pixAddr v := fun b h => by
    obtain ⟨v, -, h⟩ := withValue_eq_next.1 h
    obtain ⟨u, -, h⟩ := withValue_eq_next.1 h
    exact ⟨u, (Host.Outcome.next.inj h).symm⟩
  have blend : ∀ lc, exec (.pixBlend0 lc) s = .next t → ∃ v, t = s.writeFb s.pixAddr v := fun b h => by
    obtain ⟨v, -, h⟩ := withValue_eq_next.1 h
    obtain ⟨u, -, h⟩ := withValue_eq_next.1 h
    exact ⟨u, (Host.Outcome.next.inj h).symm⟩
  split at hi
  · split at hi
    · cases hi; exact .inr (copy _ h)
    · split at hi
      · cases hi; exact .inr (remap _ h)
      · split at hi
        · cases hi; exact .inr ⟨_, (Host.Outcome.next.inj h).symm⟩
        · simp at hi
  · split at hi
    · cases hi; exact .inr (blend _ h)
    · cases hi; exact .inl (Host.Outcome.next.inj h).symm

/-- What a host command does, in every state (R121 to R126). -/
theorem exec_bus_next {a : BusAccess} {i : Instr} {s t : State} (hi : decodeAccess a = .ok i)
    (h : exec i s = .next t) :
    t = s ∨ t = s.startDraw ∨ (∃ v, t = s.statusClear v) ∨ (∃ q v, t = s.writeReg q v) ∨ ∃ v, t = s.setRdData v := by
  have wr : ∀ off v, exec (.wr off v) s = .next t →
      t = s ∨ t = s.startDraw ∨ (∃ v, t = s.statusClear v) ∨ (∃ q v, t = s.writeReg q v) ∨ ∃ v, t = s.setRdData v :=
    fun off v h => by
      simp only [exec, execWr] at h
      split at h <;> cases h
      · exact .inr (.inl rfl)
      · exact .inr (.inr (.inl ⟨v, rfl⟩))
      · exact .inr (.inr (.inr (.inl ⟨_, v, rfl⟩)))
      · exact .inl rfl
  unfold decodeAccess at hi
  split at hi
  · split at hi <;> cases hi
    cases h
    exact .inr (.inr (.inr (.inr ⟨_, rfl⟩)))
  · split at hi
    · split at hi
      · cases hi; cases h; exact .inr (.inl rfl)
      · split at hi
        · cases hi; cases h; exact .inr (.inr (.inl ⟨_, rfl⟩))
        · cases hi; exact wr _ _ h
    · cases hi
  · cases hi
  · cases hi

/-! ## The step -/

/-- Everything a step that answers can have been, phase by phase (R70). -/
inductive StepTo (s : State) : State → Prop where
  | hostIdle (hp : s.phase = .idle) (hq : s.pending = []) : StepTo s s
  | hostPoke {t : State} (sp a v q) (hp : s.phase = .idle) (hq : s.pending = .poke sp a v :: q)
      (ht : (s.setPending q).pokeByte sp a v = .next t) : StepTo s t
  | hostPokeMask (i u q) (hp : s.phase = .idle) (hq : s.pending = .pokeMask i u :: q) :
      StepTo s ((s.setPending q).pokeMaskWord i u)
  | hostCommand {t : State} (a q i) (hp : s.phase = .idle) (hq : s.pending = .access a :: q)
      (hi : decodeAccess a = .ok i) (ht : exec i (s.setPending q) = .next t) : StepTo s t
  | frameEnd (hp : s.phase = .rowTop) (he : s.w.sp = s.w.send) : StepTo s s.endDraw
  | maskRows (hp : s.phase = .rowTop) (he : s.w.sp ≠ s.w.send) (hm : s.cfg.maskEn = true)
      (hr : Config.NMROWS ≤ s.w.r.toNat) : StepTo s (s.raiseStream .maskRows 0#8 0)
  | rowMasked (u) (hp : s.phase = .rowTop) (he : s.w.sp ≠ s.w.send) (hm : s.cfg.maskEn = true)
      (hr : s.w.r.toNat < Config.NMROWS) (hu : s.mem.readMask s.maskIndex = .ok u) : StepTo s (s.beginRow u)
  | rowUnmasked (hp : s.phase = .rowTop) (he : s.w.sp ≠ s.w.send) (hm : s.cfg.maskEn = false) :
      StepTo s (s.beginRow (BitVec.allOnes Config.MASK_W))
  | rowEnd (hp : s.phase = .opcode) (hx : ¬ s.w.x < s.cfg.width) : StepTo s s.endRow
  | fetchTrunc (hp : s.phase = .opcode) (hx : s.w.x < s.cfg.width) (hf : s.cfg.opaqueFmt = false)
      (he : s.w.sp = s.w.send) : StepTo s (s.raiseStream .streamTrunc 0#8 s.w.x)
  | rawrow {t : State} (hp : s.phase = .opcode) (hx : s.w.x < s.cfg.width) (hf : s.cfg.opaqueFmt = true)
      (ht : exec .rawrow s = .next t) : StepTo s t
  | control {t : State} (c) (hp : s.phase = .opcode) (hx : s.w.x < s.cfg.width) (hf : s.cfg.opaqueFmt = false)
      (he : s.w.sp ≠ s.w.send) (hc : s.mem.readByte .spr s.w.spAddr.toNat = .ok c)
      (ht : exec (decodeC8 c) s = .next t) : StepTo s t
  | pixelClipped (hp : s.phase = .run) (hv : s.pixVisible = false) : StepTo s s.nextPixel
  | pixelOp {t : State} (i) (hp : s.phase = .run) (hv : s.pixVisible = true)
      (hi : decodePsel (s.psel s.pixPos) = .ok i) (ht : exec i s = .next t) : StepTo s t.nextPixel

/-- A step that does not answer with a state passes on why. -/
theorem retire_eq_next {p : Phase} {o : Host.Outcome State Fault Refusal} {t : State} :
    retire p o = .next t ↔ ∃ u, o = .next u ∧ t = if p = .run then u.nextPixel else u := by
  cases o with
  | next u => by_cases h : p = .run <;> simp [retire, h, eq_comm]
  | fault f => simp [retire]
  | refused r => simp [retire]

/-- The inversion of the step: what it answers is one of the cases of `StepTo`. -/
theorem step_cases {s t : State} (h : step s = .next t) : StepTo s t := by
  unfold step fetch at h
  cases hp : s.phase <;> simp only [hp] at h
  · unfold fetchHost at h
    split at h <;> rename_i hf
    · split at hf <;> simp only [Fetched.act.injEq, reduceCtorEq] at hf <;> rename_i hq
      · rw [← hf] at h
        cases h
        exact .hostIdle hp hq
      · rw [← hf] at h
        exact .hostPoke _ _ _ _ hp hq h
      · rw [← hf] at h
        cases h
        exact .hostPokeMask _ _ _ hp hq
    · split at hf <;> simp only [Fetched.code.injEq, reduceCtorEq] at hf
      rename_i hq
      obtain ⟨rfl, rfl⟩ := hf
      split at h
      · rename_i i hi
        obtain ⟨u, hu, rfl⟩ := retire_eq_next.1 h
        exact .hostCommand _ _ i hp hq hi (by simpa using hu)
      · cases h
  · simp only [loopHead] at h
    split at h
    · cases h
      exact .frameEnd hp ‹_›
    · rename_i he
      unfold rowStart at h
      split at h
      · rename_i hm
        split at h
        · cases h
          exact .maskRows hp he hm ‹_›
        · rename_i hr
          obtain ⟨u, hu, h⟩ := withValue_eq_next.1 h
          cases h
          exact .rowMasked u hp he hm (Nat.lt_of_not_le hr) hu
      · cases h
        exact .rowUnmasked hp he (by simpa using ‹¬ s.cfg.maskEn = true›)
  · unfold fetchOpcode at h
    by_cases hx : s.w.x < s.cfg.width
    · simp only [if_pos hx] at h
      cases hf : s.cfg.opaqueFmt
      · simp only [hf, Bool.false_eq_true, if_false, fetchControl] at h
        by_cases he : s.w.sp = s.w.send
        · simp only [if_pos he] at h
          cases h
          exact .fetchTrunc hp hx hf he
        · simp only [if_neg he] at h
          cases hc : s.mem.readByte .spr s.w.spAddr.toNat with
          | error f => simp [hc] at h
          | ok c =>
            simp only [hc, decode] at h
            obtain ⟨u, hu, rfl⟩ := retire_eq_next.1 h
            exact .control c hp hx hf he hc (by simpa using hu)
      · simp only [hf, if_true, decode] at h
        obtain ⟨u, hu, rfl⟩ := retire_eq_next.1 h
        exact .rawrow hp hx hf (by simpa using hu)
    · simp only [if_neg hx] at h
      cases h
      exact .rowEnd hp hx
  · unfold fetchPixel at h
    cases hv : s.pixVisible
    · simp only [hv, Bool.false_eq_true, if_false] at h
      cases h
      exact .pixelClipped hp hv
    · simp only [hv, if_true, decode] at h
      cases hi : decodePsel (s.psel s.pixPos) with
      | error r => simp [hi] at h
      | ok i =>
        simp only [hi] at h
        obtain ⟨u, hu, rfl⟩ := retire_eq_next.1 h
        simpa using StepTo.pixelOp i hp hv hi hu

end Sys2Proof.Machine
end

