-- ==== Sys2Proof/Laws/Inv.lean ====
section
/-! SUPPORT. Which named operations keep the invariant, and when. -/

namespace Sys2Proof.Machine

/-- Outside a draw the invariant is about the spaces, the reserved bits and the record alone. -/
theorem State.Inv.of_idle {t : State} (hc : t.mem.Canonical) (hr : t.cfg.ReservedZero) (hs : t.st.RecordMatches)
    (hp : t.phase = .idle) : t.Inv :=
  ⟨hc, hr, hs, fun h => absurd hp h, fun h => by simp [hp] at h, fun h => by simp [hp] at h⟩

/-- Fault entry keeps the record in step with `CAUSE`. -/
theorem StatusRegs.RecordMatches.raise {s : State} {c pc row fx} (hc : c ≠ .none) :
    (s.raise c pc row fx).st.RecordMatches := by
  by_cases h' : s.st.cause = .none
  · rw [State.raise_first h']; constructor <;> simp [hc]
  · rw [State.raise_later h']; exact ⟨by simp [h'], by simp [h'], by simp [h']⟩

/-- Fault entry keeps the invariant. -/
theorem State.Inv.raise {s : State} {c pc row fx} (h : s.Inv) (hc : c ≠ .none) : (s.raise c pc row fx).Inv :=
  State.Inv.of_idle (by simpa using h.spaces) (by simpa using h.reserved) (StatusRegs.RecordMatches.raise hc)
    (by simp)

/-- A stream fault keeps the invariant. -/
theorem State.Inv.raiseStream {s : State} {c b x} (h : s.Inv)
  (hc : c ≠ .none) : (s.raiseStream c b x).Inv := State.Inv.raise h hc

/-- A run that passes the width check fits the row. -/
theorem State.InRow.width_le {s : State} (h : s.InRow) {n : Pos} (hn : ¬ s.cfg.width - s.w.x < n) :
    s.w.x.toNat + n.toNat ≤ s.cfg.width.toNat := by
  have := h.x_le
  rw [BitVec.lt_def, BitVec.toNat_sub_of_le (BitVec.le_def.2 this)] at hn
  omega

/-- `START` keeps the invariant, refused or not. -/
theorem State.Inv.startDraw {s : State} (h : s.Inv) (hp : s.phase = .idle) : s.startDraw.Inv := by
  by_cases hc : s.cfg.startCheck = .none
  · refine ⟨by simpa using h.spaces, by simpa using h.reserved, ?_, fun _ => ?_, fun hh => by simp [hc] at hh,
      fun hh => by simp [hc] at hh⟩
    · have := h.record
      simp only [State.startDraw, hc, if_true]
      exact ⟨by simpa using this.pc, by simpa using this.row, by simpa using this.x⟩
    · have hck := ConfigRegs.startCheck_none hc
      simp only [State.startDraw, hc, if_true]
      constructor
      · simpa using hc
      · simp
      · simp
      · simp
      · simp [ConfigRegs.extentEnd_toNat]
      · simp
      · simp
      · simp
      · simp
  · rw [State.startDraw]
    simp only [hc, if_false]
    apply State.Inv.raise _ hc
    exact State.Inv.of_idle (by simpa using h.spaces) (by simpa using h.reserved) ⟨by simpa using h.record.pc,
      by simpa using h.record.row, by simpa using h.record.x⟩ (by simpa using hp)

/-- Row start keeps the invariant. -/
theorem State.Inv.beginRow {s : State} {u} (h : s.Inv) (hp : s.phase = .rowTop)
  (hm : s.cfg.maskEn = true → s.w.r.toNat < Config.NMROWS)
    (hu : s.cfg.maskEn = false → u = BitVec.allOnes Config.MASK_W) : (s.beginRow u).Inv := by
  have hd := h.draw (by simp [hp])
  refine ⟨by simpa using h.spaces, by simpa using h.reserved, by simpa using h.record, fun _ => ?_, fun _ => ?_,
    fun hh => by simp at hh⟩
  · constructor
    · simpa using hd.checked
    · simpa using hd.notDone
    · simpa using hd.send_eq
    · simpa using hd.sp_low
    · simpa using hd.sp_high
    · simpa using hd.phase_bit
    · simpa using hd.rows
    · simpa using hd.drow_eq
    · simpa using hd.rowLimit
  · constructor
    · simp
    · simp [State.rowVisible]
    · simpa using hm
    · simpa using hu
    · simp

/-- Row end keeps the invariant. -/
theorem State.Inv.endRow {s : State} (h : s.Inv) (hp : s.phase = .opcode) : s.endRow.Inv := by
  have hd := h.draw (by simp [hp])
  have hr := h.row (.inl hp)
  refine ⟨by simpa using h.spaces, by simpa using h.reserved, ⟨by simpa using h.record.pc,
    by simpa using h.record.row, by simpa using h.record.x⟩, fun _ => ?_, fun hh => by simp at hh,
      fun hh => by simp at hh⟩
  constructor
  · simpa using hd.checked
  · simpa using hd.notDone
  · simpa using hd.send_eq
  · simpa using hd.sp_low
  · simpa using hd.sp_high
  · simpa using hd.phase_bit
  · simpa using hd.rows
  · simp [hd.drow_eq, BitVec.add_mul, BitVec.sub_sub]
  · intro hm
    have := hr.rowLimit (by simpa using hm)
    simp [BitVec.toNat_add, Config.NMROWS, Config.AW] at *
    omega

/-- What holds throughout a draw looks at a few registers only. -/
theorem State.InDraw.congr {s t : State} (h : s.InDraw) (hc : t.cfg = s.cfg) (hs : t.st = s.st)
  (h1 : t.w.send = s.w.send)
   (h2 : s.w.sp.toNat ≤ t.w.sp.toNat) (h3 : t.w.sp.toNat ≤ t.w.send.toNat) (h4 : t.w.p0 = s.w.p0)
     (h5 : t.w.r = s.w.r) (h6 : t.w.drow = s.w.drow) : t.InDraw := by
  obtain ⟨a1,a2,a3,a4,a5,a6,a7,a8,a9⟩ := h
  constructor
  · rw [hc, a1]
  · rw [hs, a2]
  · rw [h1, hc, a3]
  · rw [hc]; omega
  · exact h3
  · rw [h4, hc, a6]
  · rw [hs, h5, a7]
  · rw [h6, hc, h5, a8]
  · rw [hc, h5]; exact a9

/-- Handing a run that passed its checks to the compositor keeps the invariant. -/
theorem State.Inv.beginRun {s : State} {n a} (h : s.Inv) (hp : s.phase = .opcode) (hn : n ≠ 0)
   (hw : s.w.x.toNat + n.toNat ≤ s.cfg.width.toNat)
   (hb : s.w.sp.toNat + (s.beginRun n a).runBytes ≤ s.w.send.toNat)
   (hl : s.cfg.opaqueFmt = false → a = (s.w.sp + 1).setWidth Config.AW)
   (hr : s.cfg.opaqueFmt = true → a = s.w.spAddr ∧ s.w.x = 0 ∧ n = s.cfg.width) : (s.beginRun n a).Inv := by
  have hd := h.draw (by simp [hp])
  have hrow := h.row (.inl hp)
  refine ⟨by simpa using h.spaces, by simpa using h.reserved, by simpa using h.record, fun _ => ?_, fun _ => ?_,
    fun hh => ?_⟩
  · exact State.InDraw.congr hd (by simp) (by simp) (by simp) (by simp) (by simpa using hd.sp_high) (by simp)
      (by simp) (by simp)
  · obtain ⟨b1,b2,b3,b4,b5⟩ := hrow
    exact ⟨by simpa using b1, by simpa [State.rowVisible] using b2, by simpa using b3, by simpa using b4,
      by simpa using b5⟩
  · constructor
    · simp
    · simp only [State.beginRun_pix, State.beginRun_w_runLen]
      exact Nat.pos_of_ne_zero fun e => hn (BitVec.eq_of_toNat_eq (by simpa using e))
    · simpa using hw
    · simpa using hb
    · simpa using hl
    · simpa [WorkRegs.spAddr] using hr

/-- Going on to the next pixel, or past the run, keeps the invariant. -/
theorem State.Inv.nextPixel {s : State} (h : s.Inv) (hp : s.phase = .run) : s.nextPixel.Inv := by
  have hd := h.draw (by simp [hp])
  have hrow := h.row (.inr hp)
  have hrun := h.run hp
  have hlt := hrun.pix_lt
  obtain ⟨b1,b2,b3,b4,b5⟩ := hrow
  by_cases hl : s.pix + 1 = s.w.runLen
  · have e : s.nextPixel = s.endRun := by rw [State.nextPixel, if_pos hl]
    rw [e]
    have hb := hrun.bytes
    have hsend := (ConfigRegs.startCheck_none hd.checked).2.2.2.2.2.1
    rw [← hd.send_eq] at hsend
    have hsp : s.endRun.w.sp.toNat = s.w.sp.toNat + s.runBytes := by
      cases hf : s.cfg.opaqueFmt
      · simp [State.runBytes, hf, Config.AW, BitVec.toNat_add] at *
        omega
      · have := (hrun.src_raw hf).2.2
        simp [State.runBytes, hf, Config.AW, BitVec.toNat_add, this] at *
        omega
    refine ⟨by simpa using h.spaces, by simpa using h.reserved, by simpa using h.record, fun _ => ?_, fun _ => ?_,
      fun hh => by simp at hh⟩
    · exact State.InDraw.congr hd (by simp) (by simp) (by simp) (by rw [hsp]; omega) (by rw [hsp]; simpa using hb)
        (by simp) (by simp) (by simp)
    · refine ⟨?_, by simpa [State.rowVisible] using b2, by simpa using b3, by simpa using b4,
        fun hf => by simp at hf; simp [hf]⟩
      have := hrun.fits
      have := (s.w.x + s.w.runLen).isLt
      cases hf : s.cfg.opaqueFmt
      · simp [hf, BitVec.toNat_add] at *
        exact (Nat.mod_le _ _).trans (by omega)
      · simp [hf]
  · have e : s.nextPixel = { s with pix := s.pix + 1 } := by rw [State.nextPixel, if_neg hl]
    rw [e]
    refine ⟨h.spaces, h.reserved, h.record,
      fun _ => by obtain ⟨a1,a2,a3,a4,a5,a6,a7,a8,a9⟩ := hd; exact ⟨a1,a2,a3,a4,a5,a6,a7,a8,a9⟩,
        fun _ => ⟨b1,b2,b3,b4,b5⟩, fun _ => ?_⟩
    refine ⟨hrun.kind, ?_, hrun.fits, hrun.bytes, hrun.src_lit, hrun.src_raw⟩
    have : s.pix.toNat + 1 ≠ s.w.runLen.toNat := fun e => hl ((State.lastPixel_iff hlt).2 e)
    have := s.w.runLen.isLt
    simp [BitVec.toNat_add, Config.WIDTH_BITS] at *
    omega

/-- The engine's write keeps the invariant. -/
theorem State.Inv.writeFb {s : State} {a v} (h : s.Inv) : (s.writeFb a v).Inv :=
  ⟨State.writeFb_canonical a v h.spaces, h.reserved, h.record, fun hp => by
    obtain ⟨a1,a2,a3,a4,a5,a6,a7,a8,a9⟩ := h.draw hp
    exact ⟨a1,a2,a3,a4,a5,a6,a7,a8,a9⟩, fun hp => by
    obtain ⟨a1,a2,a3,a4,a5⟩ := h.row hp
    exact ⟨a1,a2,a3,a4,a5⟩, fun hp => by
    obtain ⟨a1,a2,a3,a4,a5,a6⟩ := h.run hp
    exact ⟨a1,a2,a3,a4,a5,a6⟩⟩

end Sys2Proof.Machine
end

