-- ==== Sys2Proof/Laws/PerInstr.lean ====
section
/-! SUPPORT. The family `EncodedFormat`: each instruction is encoded in the format its row of the table has (R58). -/

namespace Sys2Proof.Laws

/-- The formats of spec/opcode_table.json. -/
inductive Format where
  | c8 | raw | psel | reg
deriving DecidableEq, Repr

/-- The format of a code. -/
def formatOfCode : Code → Format
  | .c8 _ => .c8
  | .raw => .raw
  | .psel _ => .psel
  | .bus _ => .reg

/-- The format of an instruction's row. -/
def formatOfRow : Instr → Format
  | .rsvd0 => .c8
  | .lit _ => .c8
  | .skip _ => .c8
  | .rawrow => .raw
  | .pixCopy _ => .psel
  | .pixRemap _ => .psel
  | .pixFill0 _ => .psel
  | .pixBlend0 _ => .psel
  | .pixKeep _ => .psel
  | .start _ => .reg
  | .statusClr _ => .reg
  | .wr _ _ => .reg
  | .rd _ => .reg

/-- The instruction's code is of its row's format. -/
def EncodedFormat.Statement (i : Instr) : Prop := formatOfCode (encode i) = formatOfRow i

theorem EncodedFormat.rsvd0 : EncodedFormat.Statement .rsvd0 := rfl
theorem EncodedFormat.lit (m : BitVec 7) : EncodedFormat.Statement (.lit m) := rfl
theorem EncodedFormat.skip (m : BitVec 7) : EncodedFormat.Statement (.skip m) := rfl
theorem EncodedFormat.rawrow : EncodedFormat.Statement .rawrow := rfl
theorem EncodedFormat.pixCopy (b : Bool) : EncodedFormat.Statement (.pixCopy b) := rfl
theorem EncodedFormat.pixRemap (b : Bool) : EncodedFormat.Statement (.pixRemap b) := rfl
theorem EncodedFormat.pixFill0 (b : Bool) : EncodedFormat.Statement (.pixFill0 b) := rfl
theorem EncodedFormat.pixBlend0 (lc : BitVec 2) : EncodedFormat.Statement (.pixBlend0 lc) := rfl
theorem EncodedFormat.pixKeep (lc : BitVec 2) : EncodedFormat.Statement (.pixKeep lc) := rfl
theorem EncodedFormat.start (v : Reg32) : EncodedFormat.Statement (.start v) := rfl
theorem EncodedFormat.statusClr (v : Reg32) : EncodedFormat.Statement (.statusClr v) := rfl
theorem EncodedFormat.wr (off : BitVec 8) (v : Reg32) : EncodedFormat.Statement (.wr off v) := rfl
theorem EncodedFormat.rd (off : BitVec 8) : EncodedFormat.Statement (.rd off) := rfl

end Sys2Proof.Laws
end

