-- ==== Sys2Proof/Laws/WithMem.lean ====
section
/-! SUPPORT. Which operations look at no space: they do the same to the machine with other contents of its spaces. -/

namespace Sys2Proof.Machine

@[simp] theorem State.withMem_cfg (s : State) (m : Spaces) : (s.withMem m).cfg = s.cfg := rfl
@[simp] theorem State.withMem_st (s : State) (m : Spaces) : (s.withMem m).st = s.st := rfl
@[simp] theorem State.withMem_w (s : State) (m : Spaces) : (s.withMem m).w = s.w := rfl
@[simp] theorem State.withMem_phase (s : State) (m : Spaces) : (s.withMem m).phase = s.phase := rfl
@[simp] theorem State.withMem_pix (s : State) (m : Spaces) : (s.withMem m).pix = s.pix := rfl
@[simp] theorem State.withMem_pending (s : State) (m : Spaces) : (s.withMem m).pending = s.pending := rfl
@[simp] theorem State.withMem_rdData (s : State) (m : Spaces) : (s.withMem m).rdData = s.rdData := rfl
@[simp] theorem State.withMem_mem (s : State) (m : Spaces) : (s.withMem m).mem = m := rfl
@[simp] theorem State.withMem_withMem (s : State) (m m' : Spaces) : (s.withMem m).withMem m' = s.withMem m' := rfl
@[simp] theorem State.withMem_self (s : State) : s.withMem s.mem = s := rfl

@[simp] theorem State.withMem_pixPos (s : State) (m : Spaces) : (s.withMem m).pixPos = s.pixPos := rfl
@[simp] theorem State.withMem_pixAddr (s : State) (m : Spaces) : (s.withMem m).pixAddr = s.pixAddr := rfl
@[simp] theorem State.withMem_payloadAddr (s : State) (m : Spaces) : (s.withMem m).payloadAddr = s.payloadAddr := rfl
@[simp] theorem State.withMem_maskIndex (s : State) (m : Spaces) : (s.withMem m).maskIndex = s.maskIndex := rfl
@[simp] theorem State.withMem_rowVisible (s : State) (m : Spaces) : (s.withMem m).rowVisible = s.rowVisible := rfl
@[simp] theorem State.withMem_pixVisible (s : State) (m : Spaces) : (s.withMem m).pixVisible = s.pixVisible := rfl
@[simp] theorem State.withMem_psel (s : State) (m : Spaces) (x : Pos) : (s.withMem m).psel x = s.psel x := rfl
@[simp] theorem State.withMem_readOffset (s : State) (m : Spaces) (off : BitVec 8) :
    (s.withMem m).readOffset off = s.readOffset off := rfl

@[simp] theorem State.setDone_withMem (s : State) (m : Spaces) (d : Bool) :
    (s.withMem m).setDone d = (s.setDone d).withMem m := rfl

@[simp] theorem State.endDraw_withMem (s : State) (m : Spaces) :
    (s.withMem m).endDraw = (s.endDraw).withMem m := rfl

@[simp] theorem State.clearForDraw_withMem (s : State) (m : Spaces) :
    (s.withMem m).clearForDraw = (s.clearForDraw).withMem m := rfl

@[simp] theorem State.beginDraw_withMem (s : State) (m : Spaces) :
    (s.withMem m).beginDraw = (s.beginDraw).withMem m := rfl

@[simp] theorem State.setPending_withMem (s : State) (m : Spaces) (q : List HostAction) :
    (s.withMem m).setPending q = (s.setPending q).withMem m := rfl

@[simp] theorem State.setRdData_withMem (s : State) (m : Spaces) (v : Reg32) :
    (s.withMem m).setRdData v = (s.setRdData v).withMem m := rfl

@[simp] theorem State.writeReg_withMem (s : State) (m : Spaces) (q : Reg) (v : Reg32) :
    (s.withMem m).writeReg q v = (s.writeReg q v).withMem m := rfl

@[simp] theorem State.beginRow_withMem (s : State) (m : Spaces) (u : MaskWord) :
    (s.withMem m).beginRow u = (s.beginRow u).withMem m := rfl

@[simp] theorem State.endRow_withMem (s : State) (m : Spaces) :
    (s.withMem m).endRow = (s.endRow).withMem m := rfl

@[simp] theorem State.beginRun_withMem (s : State) (m : Spaces) (n : Pos) (a : Addr) :
    (s.withMem m).beginRun n a = (s.beginRun n a).withMem m := rfl

@[simp] theorem State.skipRun_withMem (s : State) (m : Spaces) (n : Pos) :
    (s.withMem m).skipRun n = (s.skipRun n).withMem m := rfl

@[simp] theorem State.endRun_withMem (s : State) (m : Spaces) :
    (s.withMem m).endRun = (s.endRun).withMem m := by
  unfold State.endRun
  split <;> rename_i h <;> simp only [State.withMem_cfg] at h <;> simp only [h, if_true, if_false,
    Bool.false_eq_true] <;> rfl

@[simp] theorem State.nextPixel_withMem (s : State) (m : Spaces) :
    (s.withMem m).nextPixel = (s.nextPixel).withMem m := by
  by_cases h : s.pix + 1 = s.w.runLen
  · simp only [State.nextPixel, State.withMem_pix, State.withMem_w, h, if_true, State.endRun_withMem]
  · simp only [State.nextPixel, State.withMem_pix, State.withMem_w, h, if_false]
    rfl

@[simp] theorem State.latchFault_withMem (s : State) (m : Spaces) (c : Cause) (pc row : Addr) (fx : Reg32) :
    (s.withMem m).latchFault c pc row fx = (s.latchFault c pc row fx).withMem m := by
  unfold State.latchFault
  by_cases h : s.st.cause = .none
  · rw [if_pos h, if_pos (show (s.withMem m).st.cause = .none from h)]
    rfl
  · rw [if_neg h, if_neg (show ¬ (s.withMem m).st.cause = .none from h)]

@[simp] theorem State.raise_withMem (s : State) (m : Spaces) (c : Cause) (pc row : Addr) (fx : Reg32) :
    (s.withMem m).raise c pc row fx = (s.raise c pc row fx).withMem m := by
  simp only [State.raise, State.latchFault_withMem, State.endDraw_withMem]

@[simp] theorem State.raiseStream_withMem (s : State) (m : Spaces) (c : Cause) (ctl : Byte) (x : Pos) :
    (s.withMem m).raiseStream c ctl x = (s.raiseStream c ctl x).withMem m := State.raise_withMem s m _ _ _ _

@[simp] theorem State.raiseCfg_withMem (s : State) (m : Spaces) (c : Cause) :
    (s.withMem m).raiseCfg c = (s.raiseCfg c).withMem m := State.raise_withMem s m _ _ _ _

@[simp] theorem State.startDraw_withMem (s : State) (m : Spaces) :
    (s.withMem m).startDraw = (s.startDraw).withMem m := by
  by_cases h : s.cfg.startCheck = .none
  · simp only [State.startDraw, State.withMem_cfg, h, if_true]
    rfl
  · simp only [State.startDraw, State.withMem_cfg, h, if_false, State.clearForDraw_withMem, State.raiseCfg_withMem]

@[simp] theorem State.statusClear_withMem (s : State) (m : Spaces) (v : Reg32) :
    (s.withMem m).statusClear v = (s.statusClear v).withMem m := by
  unfold State.statusClear
  cases v.getLsbD 0 <;> cases v.getLsbD 1 <;> rfl

/-- Changing the state of an outcome that goes on with a value. -/
@[simp] theorem mapNext_withValue {α : Type} (f : State → State) (r : Except Fault α)
    (k : α → Host.Outcome State Fault Refusal) :
    mapNext f (withValue r k) = withValue r fun v => mapNext f (k v) := by
  cases r <;> rfl

@[simp] theorem mapNext_next (f : State → State) (s : State) : mapNext f (.next s) = .next (f s) := rfl

@[simp] theorem mapNext_fault (f : State → State) (r : Fault) : mapNext f (.fault r) = .fault r := rfl

@[simp] theorem mapNext_refused (f : State → State) (r : Refusal) : mapNext f (.refused r) = .refused r := rfl

end Sys2Proof.Machine
end

