-- ==== Sys2Proof/Tests/Slice0.lean ====
section
/-! SUPPORT. Tests: what the spec's numbers say of the model, and a state for the hypotheses of every statement. -/

namespace Sys2Proof.Tests

open Sys2Proof.Machine

/-- Contents of the spaces: the stream `02 5A BB FE FC` at `0x10`, and the entries of section 2.2 of the vectors. -/
def testSpaces : Spaces where
  spr := [(0x10, 0x02#8), (0x11, 0x5A#8), (0x12, 0xBB#8), (0x13, 0xFE#8), (0x14, 0xFC#8)]
  lt := [(0x075A, 0x2D#8)]
  bl := [(0x4200, 0x21#8)]
  msk := [(0, 0xC000000000000000#64)]
  fb := [(0x100, 0x42#8)]

/-- The working registers at the start of a draw of that stream. -/
def testWork : WorkRegs where
  sp := 0x10
  send := 0x15
  drow := 0x100
  r := 0
  x := 0
  mw := BitVec.allOnes 64
  vis := true
  p0 := false
  runKind := .literal
  runLen := 0
  runSrc := 0

/-- A draw of that stream into rows of 4, under `CTRL = ctrl`. -/
def drawing (ctrl : Reg32) (p : Phase) : State :=
  { State.reset with
    cfg := { ctrl := ctrl, srcAddr := 0x10, srcLen := 5, width := 4, dstAddr := 0x100, pitch := 8, fbLo := 0x80,
             fbHi := 0x200, maskAddr := 0 }
    w := testWork
    mem := testSpaces
    phase := p }

/-- A draw about to fetch the control byte `c` at row position `x`. -/
def atByte (c : Byte) (x : Pos) : State :=
  { drawing 0x01#32 .opcode with
    w := { testWork with x := x }
    mem := { testSpaces with spr := testSpaces.spr.write 0x10 c } }

/-- A draw at the only pixel of a literal run, payload `5A`, with the mask word `m`. -/
def atPixel (ctrl : Reg32) (m : MaskWord) : State :=
  { drawing ctrl .run with w := { testWork with mw := m, runLen := 1, runSrc := 0x11 } }

/-- A draw at pixel `i` of the literal run `02 5A BB`. -/
def inRun (i : Pos) : State :=
  { drawing 0x01#32 .run with w := { testWork with runLen := 2, runSrc := 0x11 }, pix := i }

/-- A draw at pixel `i` of the opaque row `02 5A BB FE`. -/
def rawRun (i : Pos) : State :=
  { drawing 0x00#32 .run with w := { testWork with runLen := 4, runSrc := 0x10 }, pix := i }

/-- A draw whose extent is consumed. -/
def ended (p : Phase) : State := { drawing 0x01#32 p with w := { testWork with sp := 0x15 } }

/-- A pixel at row position `i` of a row at `drow`, on the surface of section 2.5 of the vectors. -/
def atClip (drow : Addr) (i : Pos) : State :=
  { drawing 0x01#32 .run with
    cfg := { (drawing 0x01#32 .run).cfg with fbLo := 0x2000, fbHi := 0x2020 }
    w := { testWork with drow := drow }
    pix := i }

/-- The base configuration of section 2.7 of the vectors, with `CTRL`, `WIDTH` and `MASK_ADDR`. -/
def configured (ctrl : Reg32) (width : Pos) (maskAddr : BitVec 8) : ConfigRegs where
  ctrl := ctrl
  srcAddr := 0x500
  srcLen := 4
  width := width
  dstAddr := 0x5000
  pitch := 4
  fbLo := 0x5000
  fbHi := 0x5010
  maskAddr := maskAddr

/-- A configuration that meets every bound of the start checks exactly. -/
def edge : ConfigRegs where
  ctrl := 0x1319
  srcAddr := 0xFFFFFFFF
  srcLen := 1
  width := 64
  dstAddr := 0x5001
  pitch := 0
  fbLo := 0x5000
  fbHi := 0x5000
  maskAddr := 224

/-- An idle machine with one host action to take. -/
def hosting (h : HostAction) : State := { State.reset with pending := [h] }

/-- An idle machine with a `START` of an empty frame to take. -/
def emptyFrame : State :=
  { hosting (.access (.write .word 0x24#8 1#32)) with cfg := { configured 0x01#32 4 0 with srcLen := 0 } }

/-- A draw at the head of the loop for row 32. -/
def atRow32 (ctrl : Reg32) : State := { drawing ctrl .rowTop with w := { testWork with r := 32 } }

/-- A draw at the head of the loop for row 31, its mask array at the end of MSK. -/
def atRow31 : State :=
  { drawing 0x11#32 .rowTop with
    cfg := { (drawing 0x11#32 .rowTop).cfg with maskAddr := 224 }
    w := { testWork with r := 31 }
    mem := { testSpaces with msk := [(255, 0xF000000000000000#64)] } }

/-- A draw at the end of a row. -/
def atRowEnd : State := { drawing 0x01#32 .opcode with w := { testWork with x := 4 } }

/-- An idle machine after `STREAM_OVERRUN`: `STATUS = 0x93`. -/
def faulted : State :=
  { State.reset with
    st := { State.reset.st with done := true, cause := .streamOverrun, faultPc := 0x10, faultX := 0x00040001 } }

/-- The state after one step, if there is one. -/
def stepped (s : State) : Option State :=
  match step s with
  | .next t => some t
  | .fault _ => none
  | .refused _ => none

/-! ## Ill-formed terms are refused -/

theorem test_illformed_lit_zero : (Instr.wellFormed (.lit 0#7)) = false := by decide

theorem test_illformed_wr_start_offset : (Instr.wellFormed (.wr 0x24#8 1#32)) = false := by decide

theorem test_illformed_wr_status_offset : (Instr.wellFormed (.wr 0x28#8 1#32)) = false := by decide

theorem test_illformed_wr_misaligned : (Instr.wellFormed (.wr 0x05#8 1#32)) = false := by decide

theorem test_illformed_rd_misaligned : (Instr.wellFormed (.rd 0x3E#8)) = false := by decide

/-! ## Every constructor from its encoding, written out from R64, R62, R66, R67 -/

theorem test_decode_rsvd0 : decode (.c8 0b00000000#8) = .ok (.rsvd0) := by decide

theorem test_decode_lit : decode (.c8 0b00000101#8) = .ok (.lit 5#7) := by decide

theorem test_decode_skip : decode (.c8 0b11111011#8) = .ok (.skip 0b1111011#7) := by decide

theorem test_decode_rawrow : decode (.raw) = .ok (.rawrow) := by decide

theorem test_decode_pixCopy : decode (.psel 0b1100#4) = .ok (.pixCopy true) := by decide

theorem test_decode_pixRemap : decode (.psel 0b1001#4) = .ok (.pixRemap false) := by decide

theorem test_decode_pixFill0 : decode (.psel 0b1010#4) = .ok (.pixFill0 false) := by decide

theorem test_decode_pixBlend0 : decode (.psel 0b0101#4) = .ok (.pixBlend0 1#2) := by decide

theorem test_decode_pixKeep : decode (.psel 0b0010#4) = .ok (.pixKeep 2#2) := by decide

theorem test_decode_start : decode (.bus (.write .word 0x24#8 0xDEADBEEF#32)) = .ok (.start 0xDEADBEEF#32) :=
    by decide

theorem test_decode_statusClr : decode (.bus (.write .word 0x28#8 2#32)) = .ok (.statusClr 2#32) := by decide

theorem test_decode_wr : decode (.bus (.write .word 0x20#8 0xFF#32)) = .ok (.wr 0x20#8 0xFF#32) := by decide

theorem test_decode_rd : decode (.bus (.read .word 0x24#8)) = .ok (.rd 0x24#8) := by decide

theorem test_decode_selector_rejected :
    decode (.psel 0b1011#4) = .error .selectorNeverFormed ∧
    decode (.psel 0b1111#4) = .error .selectorNeverFormed := by decide

theorem test_decode_narrow_rejected :
    decode (.bus (.read .half 0x00#8)) = .error .narrowAccess ∧
    decode (.bus (.write .byte 0x24#8 1#32)) = .error .narrowAccess := by decide

theorem test_tableWord :
    decodeTableWord 8 0x7F = some (.lit 127#7) ∧ decodeTableWord 8 0x00 = some .rsvd0 ∧
    decodeTableWord 4 0x8 = some (.pixCopy false) ∧ decodeTableWord 8 0x8 = some (.pixCopy false) ∧
    decodeTableWord 32 0x24 = some (.start 0#32) ∧ decodeTableWord 32 0x28 = some (.statusClr 0#32) := by decide

/-! ## One step of each instruction, on the numbers of spec/95_test_vectors.md and of the rules' examples -/

/-- R80, its example: the fetch at `X = 1` returns `00`. -/
theorem test_rsvd0 :
    (stepped (atByte 0x00#8 1)).map (fun t => (t.st.word, t.st.faultX, t.w.x, t.w.sp)) =
    some (0x83#32, 0x00000001#32, 1#16, 0x10#33) := by decide

/-- R78, its example: `02 AA BB` at `0x10` with `X = 1`. -/
theorem test_lit_runs :
    (stepped (atByte 0x02#8 1)).map (fun t => (t.phase, t.w.runLen, t.w.runSrc, t.w.x)) =
    some (.run, 2#16, 0x11#32, 1#16) := by decide

/-- R78, R29: a literal of 4 at `X = 1` of a row of 4. -/
theorem test_lit_overrun :
    (stepped (atByte 0x04#8 1)).map (fun t => (t.st.word, t.st.faultPc, t.st.faultX)) =
    some (0x93#32, 0x10#32, 0x00040001#32) := by decide

/-- R79: `FD` skips 3, which ends the row of 4. -/
theorem test_skip :
    (stepped (atByte 0xFD#8 1)).map (fun t => (t.phase, t.w.x, t.w.sp, t.mem.fb)) =
    some (.opcode, 4#16, 0x11#33, (testSpaces).fb) := by decide

/-- R79: `80` skips 128. -/
theorem test_skip_overrun :
    (stepped (atByte 0x80#8 1)).map (fun t => (t.st.word, t.st.faultX, t.w.x)) =
    some (0x93#32, 0x00800001#32, 1#16) := by decide

/-- R81: a row of 4 from `SP`. -/
theorem test_rawrow :
    (stepped (drawing 0x00#32 .opcode)).map (fun t => (t.phase, t.w.runLen, t.w.runSrc)) =
    some (.run, 4#16, 0x10#32) := by decide

/-- R81, R132: 3 bytes left of a row of 4. -/
theorem test_rawrow_trunc :
    (stepped { drawing 0x00#32 .opcode with w := { testWork with send := 0x13 } }).map
    (fun t => (t.st.word, t.st.faultPc, t.st.faultX)) = some (0xA3#32, 0x10#32, 0#32) := by decide

/-- Section 2.4 of the vectors; after the only pixel of the run `X` and `SP` are past it. -/
theorem test_pixCopy :
    (stepped (atPixel 0x11#32 (BitVec.allOnes 64))).map (fun t => (t.mem.fb, t.w.x, t.w.sp)) =
    some ([(0x100, 0x5A#8)], 1#16, 0x12#33) := by decide

/-- Section 2.4 of the vectors; after the only pixel of the run `X` and `SP` are past it. -/
theorem test_pixRemap :
    (stepped (atPixel 0x711#32 (BitVec.allOnes 64))).map (fun t => (t.mem.fb, t.w.x, t.w.sp)) =
    some ([(0x100, 0x2D#8)], 1#16, 0x12#33) := by decide

/-- Section 2.4 of the vectors; after the only pixel of the run `X` and `SP` are past it. -/
theorem test_pixFill0 :
    (stepped (atPixel 0xF11#32 (BitVec.allOnes 64))).map (fun t => (t.mem.fb, t.w.x, t.w.sp)) =
    some ([(0x100, 0x00#8)], 1#16, 0x12#33) := by decide

/-- Section 2.4 of the vectors; after the only pixel of the run `X` and `SP` are past it. -/
theorem test_pixBlend0 :
    (stepped (atPixel 0x19#32 0#64)).map (fun t => (t.mem.fb, t.w.x, t.w.sp)) =
    some ([(0x100, 0x21#8)], 1#16, 0x12#33) := by decide

/-- Section 2.4 of the vectors; after the only pixel of the run `X` and `SP` are past it. -/
theorem test_pixKeep :
    (stepped (atPixel 0x11#32 0#64)).map (fun t => (t.mem.fb, t.w.x, t.w.sp)) =
    some ([(0x100, 0x42#8)], 1#16, 0x12#33) := by decide

/-- V-S14. -/
theorem test_start_reset :
    ∃ t, exec (.start 1#32) State.reset = .next t ∧ t.st.word = 0x43#32 ∧ t.phase = .idle :=
  ⟨_, rfl, by decide⟩

/-- R125. -/
theorem test_start_begins :
    ∃ t, exec (.start 0#32) (drawing 0x01#32 .idle) = .next t ∧ t.w.sp = 0x10#33 ∧ t.w.send = 0x15#33 ∧
    t.phase = .rowTop :=
  ⟨_, rfl, by decide⟩

/-- R126, its example: `STATUS = 0x93`, then `WR STATUS, 2`. -/
theorem test_statusClr :
    ∃ t, exec (.statusClr 2#32) faulted = .next t ∧ t.st.word = 0x01#32 ∧ t.st.faultPc = 0 ∧ t.st.faultX = 0 :=
  ⟨_, rfl, by decide⟩

/-- R126: bit 0 clears `DONE` alone. -/
theorem test_statusClr_done : ∃ t, exec (.statusClr 1#32) faulted = .next t ∧
    t.st.word = 0x92#32 := ⟨_, rfl, by decide⟩

/-- V-R1. -/
theorem test_wr_ctrl :
    ∃ t, exec (.wr 0x00#8 0xFFFFFFFF#32) State.reset = .next t ∧ t.cfg.ctrl = 0x1F1F#32 :=
  ⟨_, rfl, by decide⟩

/-- V-R3. -/
theorem test_wr_width :
    ∃ t, exec (.wr 0x0C#8 0x12345678#32) State.reset = .next t ∧ t.cfg.width = 0x5678#16 :=
  ⟨_, rfl, by decide⟩

/-- R122, its example. -/
theorem test_rd_status : ∃ t, exec (.rd 0x28#8) faulted = .next t ∧ t.rdData = 0x93#32 := ⟨_, rfl, by decide⟩

/-- V-R7. -/
theorem test_rd_start : ∃ t, exec (.rd 0x24#8) faulted = .next t ∧ t.rdData = 0#32 := ⟨_, rfl, by decide⟩

/-- V-K1 to V-K5. -/
theorem test_clip :
    (atClip 0x2000#32 0).pixVisible = true ∧ (atClip 0x201F#32 0).pixVisible = true ∧
    (atClip 0x201F#32 1).pixVisible = false ∧ (atClip 0x1FFF#32 1).rowVisible = false ∧
    (atClip 0x2020#32 0).rowVisible = false := by decide

/-- An instruction placed where the next step fetches it runs. -/
theorem test_withFetchWord :
    (stepped (State.reset.withFetchWord 4 0x8)).isSome = true ∧
    (stepped (State.reset.withFetchWord 8 0x7F)).isSome = true ∧
    (stepped (State.reset.withFetchWord 32 0x24)).map (·.st.word) = some 0x43#32 := by decide

/-! ## What the statements' hypotheses ask for can be met -/

theorem witness_DecodeOfEncodeIsIdentity :
    (Instr.lit 1#7).wellFormed = true ∧ (Instr.wr 0x3C#8 0#32).wellFormed = true := by decide

theorem witness_EncodeOfDecodeIsIdentity :
    decode (.c8 0xFF#8) = .ok (.skip 127#7) ∧ decode (.psel 0x3#4) = .ok (.pixKeep 3#2) := by decide

theorem witness_ControlByteGivesKindAndLength :
    (0x00#8).toNat = 0 ∧ (0 < (0x01#8).toNat ∧ (0x7F#8).toNat < 128) ∧ 128 ≤ (0x80#8).toNat := by decide

/-- Levels 0, 15, 1, 19, set bits; level 19 blended. -/
theorem witness_SelectorNamesPixelOperation :
    ∀ c ∈ [0x00, 0x0F01, 0x0101, 0x1301, 0x1308], (drawing (BitVec.ofNat 32 c) .run).cfg.ltsel.toNat < 20 ∧
    (drawing (BitVec.ofNat 32 c) .run).ebit 0#16 = true := by decide

/-- Clear bits, blended and normal. -/
theorem witness_SelectorNamesPixelOperation_clear :
    (atPixel 0x1319#32 0#64).ebit 0#16 = false ∧ (atPixel 0x1319#32 0#64).cfg.mode = 2#2 ∧
    (atPixel 0x11#32 0#64).ebit 0#16 = false ∧ (atPixel 0x11#32 0#64).cfg.mode ≠ 2#2 := by decide

theorem witness_NarrowHostAccessRefused :
    (hosting (.access (.read .byte 0x00#8))).phase = .idle ∧
    (hosting (.access (.read .byte 0x00#8))).pending = .access (.read .byte 0x00#8) :: [] ∧ (0x01#8).toNat % 4 ≠ 0 ∧
    (0xFF#8).toNat % 4 ≠ 0 := by decide

theorem witness_ResetRegistersAreZero : State.reset.phase = .idle ∧ State.reset.pending = [] := by decide

theorem witness_ResetSpacesHoldNoValue :
    0 < ByteSpace.lt.size ∧ 5119 < ByteSpace.lt.size ∧ 65535 < ByteSpace.bl.size ∧ 4294967295 < ByteSpace.fb.size ∧
    (255 : Nat) < 256 := by decide

/-- Also that of `RegisterWriteStores`. -/
theorem witness_RegisterReadReturnsValue : 0x3C ≤ (0x3C#8).toNat ∧ 0x3C ≤ (0xFF#8).toNat := by decide

theorem witness_WrittenRegisterReadsBack :
    ∃ t, (0x20#8).toNat ≤ 0x20 ∧ (0x20#8).toNat % 4 = 0 ∧ exec (.wr 0x20#8 0x1FF#32) State.reset = .next t :=
  ⟨_, by decide, by decide, rfl⟩

theorem witness_StatusClearClearsWhatIsAsked :
    (1#32).getLsbD 0 = true ∧ (1#32).getLsbD 1 = false ∧ (2#32).getLsbD 0 = false ∧
    (2#32).getLsbD 1 = true := by decide

/-- V-S1, S3, S4, S6, S7, S8, S11, S13. -/
theorem witness_StartRefusesBadConfiguration :
    (configured 0x02#32 4 0).fmt = 2#2 ∧ (configured 0x0D#32 4 0).mode = 3#2 ∧
    20 ≤ (configured 0x1401#32 4 0).ltsel.toNat ∧ (configured 0x01#32 0 0).width.toNat = 0 ∧
    ((configured 0x11#32 65 0).maskEn = true ∧ 64 < (configured 0x11#32 65 0).width.toNat) ∧
    ((configured 0x11#32 4 225).maskEn = true ∧ 256 < (configured 0x11#32 4 225).maskAddr.toNat + 32) ∧
    2 ^ 32 < ({ configured 0x01#32 4 0 with srcAddr := 0xFFFFFFFF, srcLen := 2 } : ConfigRegs).srcAddr.toNat + 2 ∧
    ({ configured 0x01#32 4 0 with fbLo := 0x5010, fbHi := 0x500F } : ConfigRegs).fbHi.toNat < 0x5010 := by decide

/-- Each of them passes the checks before its own. -/
theorem witness_StartRefusesBadConfiguration_order :
    [configured 0x02#32 4 0, configured 0x0D#32 4 0, configured 0x1401#32 4 0, configured 0x01#32 0 0,
      configured 0x11#32 65 0, configured 0x11#32 4 225,
      { configured 0x01#32 4 0 with srcAddr := 0xFFFFFFFF, srcLen := 2 },
      { configured 0x01#32 4 0 with fbLo := 0x5010, fbHi := 0x500F }].map (·.startCheck) =
    [.cfgFmt, .cfgMode, .cfgLtsel, .cfgWidth, .cfgMask, .cfgMask, .cfgRange, .cfgRange] := by decide

/-- Every bound met exactly. -/
theorem witness_StartInitialisesWorkingRegisters :
    (edge.fmt.toNat < 2 ∧ edge.mode.toNat < 3 ∧ edge.ltsel.toNat < 20 ∧ 0 < edge.width.toNat) ∧
    (edge.maskEn = true → edge.width.toNat ≤ 64 ∧ edge.maskAddr.toNat + 32 ≤ 256) ∧
    edge.srcAddr.toNat + edge.srcLen.toNat ≤ 2 ^ 32 ∧ edge.fbLo.toNat ≤ edge.fbHi.toNat := by decide

theorem witness_EmptyFrameDrawsNothing :
    emptyFrame.phase = .idle ∧ emptyFrame.pending = .access (.write .word 0x24#8 1#32) :: [] ∧
    emptyFrame.cfg.startCheck = .none ∧ emptyFrame.cfg.srcLen = 0 := by decide

theorem witness_HostStoreIsReadBack :
    (hosting (.poke .lt 0x13FF#32 7#8)).phase = .idle ∧ (0x13FF#32).toNat < ByteSpace.lt.size ∧
    (hosting (.pokeMask 255#8 1#64)).pending = .pokeMask 255#8 1#64 :: [] := by decide

/-- Its second clause. -/
theorem witness_StepRunsDecodedInstruction :
    (atByte 0x02#8 1).phase = .opcode ∧ (atByte 0x02#8 1).w.x.toNat < (atByte 0x02#8 1).cfg.width.toNat ∧
    (atByte 0x02#8 1).cfg.fmt ≠ 0#2 ∧ (atByte 0x02#8 1).w.sp ≠ (atByte 0x02#8 1).w.send ∧
    (atByte 0x02#8 1).mem.spr.read 0x10 = some 0x02#8 ∧ decode (.c8 0x02#8) = .ok (.lit 2#7) := by decide

theorem witness_StepRunsDecodedInstruction_raw :
    (drawing 0x00#32 .opcode).cfg.fmt = 0#2 ∧
    (drawing 0x00#32 .opcode).w.x.toNat < (drawing 0x00#32 .opcode).cfg.width.toNat := by decide

theorem witness_StepRunsDecodedInstruction_host :
    decode (.bus (.write .word 0x00#8 1#32)) = .ok (.wr 0x00#8 1#32) ∧
    (hosting (.access (.write .word 0x00#8 1#32))).pending = .access (.write .word 0x00#8 1#32) :: [] := by decide

theorem witness_StepRunsDecodedInstruction_pixel :
    (atPixel 0x11#32 0#64).w.vis = true ∧
    (atPixel 0x11#32 0#64).cfg.fbLo.toNat ≤ (atPixel 0x11#32 0#64).pixAddr.toNat ∧
    (atPixel 0x11#32 0#64).pixAddr.toNat < (atPixel 0x11#32 0#64).cfg.fbHi.toNat ∧
    decode (.psel ((atPixel 0x11#32 0#64).psel (atPixel 0x11#32 0#64).pixPos)) = .ok (.pixKeep 0#2) := by decide

theorem witness_NextPixelAdvancesRun :
    (inRun 0).pix.toNat + 1 < (inRun 0).w.runLen.toNat ∧ (inRun 1).pix.toNat + 1 = (inRun 1).w.runLen.toNat ∧
    (inRun 1).w.sp.toNat + 1 + (inRun 1).w.runLen.toNat < 2 ^ 33 ∧
    (inRun 1).w.x.toNat + (inRun 1).w.runLen.toNat ≤ (inRun 1).cfg.width.toNat ∧
    (inRun 1).w.sp.toNat + (inRun 1).cfg.width.toNat < 2 ^ 33 ∧ (inRun 1).cfg.fmt ≠ 0#2 := by decide

/-- The last pixel of an opaque row. -/
theorem witness_NextPixelAdvancesRun_raw :
    (rawRun 3).pix.toNat + 1 = (rawRun 3).w.runLen.toNat ∧
    (rawRun 3).w.sp.toNat + 1 + (rawRun 3).w.runLen.toNat < 2 ^ 33 ∧
    (rawRun 3).w.x.toNat + (rawRun 3).w.runLen.toNat ≤ (rawRun 3).cfg.width.toNat ∧
    (rawRun 3).w.sp.toNat + (rawRun 3).cfg.width.toNat < 2 ^ 33 ∧ (rawRun 3).cfg.fmt = 0#2 := by decide

theorem witness_FrameEndsAtExtentEnd :
    (ended .rowTop).phase = .rowTop ∧ (ended .rowTop).w.sp = (ended .rowTop).w.send := by decide

theorem witness_RowStartPreparesRow :
    (drawing 0x11#32 .rowTop).w.sp ≠ (drawing 0x11#32 .rowTop).w.send ∧ (drawing 0x11#32 .rowTop).cfg.maskEn = true ∧
    (drawing 0x11#32 .rowTop).w.r.toNat < 32 ∧ (drawing 0x11#32 .rowTop).mem.msk.read 0 = some 0xC000000000000000#64 ∧
    ((atRow32 0x11#32).phase = .rowTop ∧ (atRow32 0x11#32).w.sp ≠ (atRow32 0x11#32).w.send ∧
      (atRow32 0x11#32).cfg.maskEn = true ∧ 32 ≤ (atRow32 0x11#32).w.r.toNat) ∧
    ((atRow32 0x01#32).w.sp ≠ (atRow32 0x01#32).w.send ∧ (atRow32 0x01#32).cfg.maskEn = false) := by decide

/-- The last row of a mask array, at the last word of MSK. -/
theorem witness_RowStartPreparesRow_last :
    atRow31.phase = .rowTop ∧ atRow31.w.sp ≠ atRow31.w.send ∧ atRow31.cfg.maskEn = true ∧ atRow31.w.r.toNat = 31 ∧
    atRow31.cfg.maskAddr.toNat + atRow31.w.r.toNat = 255 ∧
    atRow31.mem.msk.read (atRow31.cfg.maskAddr.toNat + atRow31.w.r.toNat) = some 0xF000000000000000#64 := by decide

theorem witness_RowEndStepsBackward : atRowEnd.phase = .opcode ∧ atRowEnd.w.x = atRowEnd.cfg.width := by decide

theorem witness_FetchAtExtentEndFaults :
    (ended .opcode).phase = .opcode ∧ (ended .opcode).cfg.fmt ≠ 0#2 ∧
    (ended .opcode).w.x.toNat < (ended .opcode).cfg.width.toNat ∧
    (ended .opcode).w.sp = (ended .opcode).w.send := by decide

/-- Both bounds met exactly. -/
theorem witness_LiteralRunBegins :
    (4#7) ≠ 0#7 ∧ testWork.x.toNat + (4#7).toNat ≤ (drawing 0x01#32 .opcode).cfg.width.toNat ∧
    testWork.sp.toNat + 1 + (4#7).toNat ≤ testWork.send.toNat := by decide

/-- One pixel too many, one byte too few. -/
theorem witness_LiteralRunFaults :
    testWork.x.toNat ≤ (drawing 0x01#32 .opcode).cfg.width.toNat ∧ testWork.sp.toNat < testWork.send.toNat ∧
    (drawing 0x01#32 .opcode).cfg.width.toNat < testWork.x.toNat + (5#7).toNat ∧
    ({ testWork with send := 0x14 } : WorkRegs).send.toNat < testWork.sp.toNat + 1 + (4#7).toNat := by decide

/-- Skips of 4 and of 5 in a row of 4. -/
theorem witness_SkipRunAdvances :
    testWork.sp.toNat < 2 ^ 32 ∧
    testWork.x.toNat + (128 - (124#7).toNat) ≤ (drawing 0x01#32 .opcode).cfg.width.toNat ∧
    (drawing 0x01#32 .opcode).cfg.width.toNat < testWork.x.toNat + (128 - (123#7).toNat) := by decide

theorem witness_RawRowBeginsOrFaults :
    testWork.sp.toNat ≤ testWork.send.toNat ∧
    testWork.sp.toNat + (drawing 0x00#32 .opcode).cfg.width.toNat ≤ ({ testWork with send :=
    0x14 } : WorkRegs).send.toNat ∧
    ({ testWork with send :=
    0x13 } : WorkRegs).send.toNat < testWork.sp.toNat + (drawing 0x00#32 .opcode).cfg.width.toNat := by decide

/-- With the values of section 2.3 of the vectors. -/
theorem witness_MaskBitOfPosition :
    (drawing 0x01#32 .run).cfg.maskEn = false ∧ (drawing 0x11#32 .run).cfg.maskEn = true ∧ (63#16).toNat < 64 ∧
    [0#16, 1#16, 62#16, 63#16].map (atPixel 0x11#32 0x8000000000000001#64).mbit = [true, false, false, true] :=
    by decide

theorem witness_StippleIsCheckerboard :
    ({ testWork with p0 := true } : WorkRegs).p0 = !testWork.p0 ∧
    [0#16, 1#16, 2#16, 3#16].map (drawing 0x05#32 .run).stip = [true, false, true, false] := by decide

theorem witness_EffectiveBitByMode :
    (drawing 0x01#32 .run).cfg.mode = 0#2 ∧ (drawing 0x09#32 .run).cfg.mode = 2#2 ∧
    (drawing 0x05#32 .run).cfg.mode = 1#2 ∧
    [0#16, 1#16, 2#16, 3#16].map (atPixel 0x15#32 0xC000000000000000#64).ebit = [true, false, false, false] :=
    by decide

theorem witness_LightTableApply :
    (0#5).toNat = 0 ∧ (15#5).toNat = 15 ∧ ((7#5).toNat ≠ 0 ∧ (7#5).toNat ≠ 15 ∧ (7#5).toNat < 20) ∧
    testSpaces.lt.read ((7#5).toNat * 256 + (0x5A#8).toNat) = some 0x2D#8 := by decide

theorem witness_PixCopyStoresPayload :
    (atPixel 0x11#32 0#64).mem.spr.read
    (((atPixel 0x11#32 0#64).w.runSrc.toNat + (atPixel 0x11#32 0#64).pix.toNat) % 2 ^ 32) = some 0x5A#8 := by decide

theorem witness_PixRemapStoresTableEntry :
    (atPixel 0x711#32 0#64).cfg.ltsel.toNat < 20 ∧ (atPixel 0x711#32 0#64).mem.spr.read
      (((atPixel 0x711#32 0#64).w.runSrc.toNat + (atPixel 0x711#32 0#64).pix.toNat) % 2 ^ 32) = some 0x5A#8 ∧
    (atPixel 0x711#32 0#64).mem.lt.read ((atPixel 0x711#32 0#64).cfg.ltsel.toNat * 256 + (0x5A#8).toNat) = some 0x2D#8 := by decide

theorem witness_PixBlend0DarkensDestination :
    (atPixel 0x19#32 0#64).mem.fb.read (atPixel 0x19#32 0#64).pixAddr.toNat = some 0x42#8 ∧
    (atPixel 0x19#32 0#64).mem.bl.read ((0x42#8).toNat * 256) = some 0x21#8 := by decide

theorem witness_PixelAddressWraps :
    (drawing 0x01#32 .run).cfg.fmt ≠ 0#2 ∧ (drawing 0x00#32 .run).cfg.fmt = 0#2 ∧
    ({ testWork with x := 65534 } : WorkRegs).x.toNat + (1#16).toNat < 65536 := by decide

theorem witness_ClippedPixelIsSilent :
    (atClip 0x1FFF#32 0).phase = .run ∧ ({ testWork with vis := false } : WorkRegs).vis = false ∧
    (atClip 0x1FFF#32 0).pixAddr.toNat < (atClip 0x1FFF#32 0).cfg.fbLo.toNat ∧
    (atClip 0x201F#32 1).cfg.fbHi.toNat ≤ (atClip 0x201F#32 1).pixAddr.toNat := by decide

theorem witness_PixelProcedureIsLightOrBlend :
    (atPixel 0x11#32 0#64).phase = .run ∧ (atPixel 0x11#32 0#64).w.vis = true ∧
    (atPixel 0x11#32 0#64).cfg.inFb (atPixel 0x11#32 0#64).pixAddr = true ∧
    (atPixel 0x11#32 (BitVec.allOnes 64)).ebit 0#16 = true ∧ (atPixel 0x19#32 0#64).ebit 0#16 = false ∧
    (atPixel 0x19#32 0#64).cfg.mode = 2#2 ∧ (atPixel 0x11#32 0#64).cfg.mode ≠ 2#2 ∧
    (atPixel 0x11#32 0#64).cfg.ltsel.toNat < 20 := by decide

theorem witness_PixelProcedureIsLightOrBlend_payload : (atPixel 0x11#32 0#64).payload = .ok 0x5A#8 := rfl

/-- A state of a draw, at a row boundary, meets the invariant. -/
theorem witness_inv_rowTop : (drawing 0x01#32 .rowTop).Inv :=
  ⟨⟨by decide, by decide, by decide, by decide, by decide, by decide, by decide, by decide, by decide, by decide⟩,
    rfl, ⟨by decide, by decide, by decide⟩,
    fun _ => ⟨by decide, by decide, by decide, by decide, by decide, by decide, by decide, by decide, by decide⟩,
    fun h => by simp [drawing] at h, fun h => by simp [drawing] at h⟩

/-- A state inside a literal run meets the invariant. -/
theorem witness_inv_run : (inRun 1).Inv :=
  ⟨⟨by decide, by decide, by decide, by decide, by decide, by decide, by decide, by decide, by decide, by decide⟩,
    rfl, ⟨by decide, by decide, by decide⟩,
    fun _ => ⟨by decide, by decide, by decide, by decide, by decide, by decide, by decide, by decide, by decide⟩,
    fun _ => ⟨by decide, by decide, by decide, by decide, by decide⟩,
    fun _ => ⟨by decide, by decide, by decide, by decide, by decide, by decide⟩⟩

/-- Also that of `StreamPointerNeverMovesBack`. -/
theorem witness_StepKeepsInvariant : (inRun 1).Inv ∧ ∃ t, step (inRun 1) = .next t := ⟨witness_inv_run, _, rfl⟩

theorem witness_StepKeepsSpacesCanonical :
    (inRun 1).mem.Canonical ∧ ∃ t, step (inRun 1) = .next t :=
  ⟨witness_inv_run.spaces, _, rfl⟩

theorem witness_DrawWritesOnlyValidSurface :
    (inRun 1).phase ≠ .idle ∧ (∃ t, step (inRun 1) = .next t) ∧ 0x7F < (inRun 1).cfg.fbLo.toNat ∧
    (inRun 1).cfg.fbHi.toNat ≤ 0x200 :=
  ⟨by decide, ⟨_, rfl⟩, by decide, by decide⟩

theorem witness_HostCommandTouchesNoSpace :
    (hosting (.access (.write .word 0x24#8 1#32))).phase = .idle ∧
    ∃ t, step (hosting (.access (.write .word 0x24#8 1#32))) = .next t :=
  ⟨by decide, _, rfl⟩

theorem witness_LatchedFaultIsSticky : faulted.st.cause ≠ .none ∧ ∃ t, step faulted = .next t := ⟨by decide, _, rfl⟩

theorem witness_DrawEndsByFrameEndOrFault :
    (ended .rowTop).phase ≠ .idle ∧ ∃ t, step (ended .rowTop) = .next t ∧ t.phase = .idle :=
  ⟨by decide, _, rfl, by decide⟩

theorem witness_DrawEndsByFrameEndOrFault_fault :
    (ended .opcode).phase ≠ .idle ∧ ∃ t, step (ended .opcode) = .next t ∧ t.phase = .idle :=
  ⟨by decide, _, rfl, by decide⟩

/-- Another content of SPR, differing at `SEND`. -/
theorem witness_StreamReadsStayInExtent :
    (inRun 1).Inv ∧ (inRun 1).phase ≠ .idle ∧ ∃ m : Memory, m ≠ (inRun 1).mem.spr ∧
    ∀ a, (inRun 1).cfg.srcAddr.toNat ≤ a → a < (inRun 1).w.send.toNat → m.read a = (inRun 1).mem.spr.read a := by
  refine ⟨witness_inv_run, by decide, (inRun 1).mem.spr.write 0x15 0x99#8, by decide, fun a _ h => ?_⟩
  exact Cells.read_write_other _ _ (Nat.ne_of_lt h)

/-- Another content of table 0. -/
theorem witness_BypassedLightTablesNeverRead :
    ∃ m : Memory, m ≠ (inRun 1).mem.lt ∧
    ∀ a, 256 ≤ a ∧ a < 15 * 256 ∨ 16 * 256 ≤ a ∧ a < 20 * 256 → m.read a = (inRun 1).mem.lt.read a := by
  refine ⟨(inRun 1).mem.lt.write 255 0x99#8, by decide, fun a h => Cells.read_write_other _ _ ?_⟩
  omega

/-- Another content of entry (0, 1). -/
theorem witness_OnlyBlendColumnZeroRead :
    ∃ m : Memory, m ≠ (inRun 1).mem.bl ∧ ∀ d, d < 256 → m.read (d * 256) = (inRun 1).mem.bl.read (d * 256) := by
  refine ⟨(inRun 1).mem.bl.write 1 0x99#8, by decide, fun d _ => Cells.read_write_other _ _ ?_⟩
  omega

theorem witness_EveryDrawEnds :
    (drawing 0x01#32 .rowTop).Inv ∧ (drawing 0x01#32 .rowTop).phase ≠ .idle :=
  ⟨witness_inv_rowTop, by decide⟩

theorem witness_LiteralRunCopiesItsPayload :
    (drawing 0x01#32 .opcode).cfg.fmt = 1#2 ∧ (2#7) ≠ 0#7 ∧
    (drawing 0x01#32 .opcode).mem.spr.read (drawing 0x01#32 .opcode).w.sp.toNat = some (BitVec.ofNat 8 (2#7).toNat) ∧
    testWork.x.toNat + (2#7).toNat ≤ (drawing 0x01#32 .opcode).cfg.width.toNat ∧
    testWork.sp.toNat + 1 + (2#7).toNat ≤ testWork.send.toNat ∧ testWork.send.toNat ≤ 2 ^ 32 ∧
    (∀ i, i < (2#7).toNat →
      (drawing 0x01#32 .opcode).mem.spr.read (testWork.sp.toNat + 1 + i) = some (if i = 0 then 0x5A#8 else 0xBB#8)) ∧
    (drawing 0x01#32 .opcode).cfg.ltsel = 0#5 ∧ (drawing 0x01#32 .opcode).cfg.maskEn = false ∧
    (drawing 0x01#32 .opcode).cfg.mode ≠ 1#2 := by decide

/-- The same state under a mask array, its row all ones. -/
theorem witness_LiteralRunCopiesItsPayload_masked :
    (drawing 0x11#32 .opcode).cfg.fmt = 1#2 ∧ (drawing 0x11#32 .opcode).cfg.maskEn = true ∧
    (drawing 0x11#32 .opcode).cfg.width.toNat ≤ 64 ∧
    (∀ i, i < (2#7).toNat → (drawing 0x11#32 .opcode).w.mw.getLsbD (63 - ((drawing 0x11#32 .opcode).w.x.toNat + i)) = true) ∧
    (drawing 0x11#32 .opcode).cfg.ltsel = 0#5 ∧ (drawing 0x11#32 .opcode).cfg.mode ≠ 1#2 := by decide

theorem witness_RawRowCopiesItsPixels_masked :
    (drawing 0x10#32 .opcode).cfg.fmt = 0#2 ∧ (drawing 0x10#32 .opcode).cfg.maskEn = true ∧
    (drawing 0x10#32 .opcode).cfg.width.toNat ≤ 64 ∧
    (∀ i, i < (drawing 0x10#32 .opcode).cfg.width.toNat → (drawing 0x10#32 .opcode).w.mw.getLsbD (63 - i) = true) ∧
    (drawing 0x10#32 .opcode).cfg.ltsel = 0#5 ∧ (drawing 0x10#32 .opcode).cfg.mode ≠ 1#2 := by decide

theorem witness_RawRowCopiesItsPixels :
    (drawing 0x00#32 .opcode).cfg.fmt = 0#2 ∧ testWork.x = 0 ∧ 0 < (drawing 0x00#32 .opcode).cfg.width.toNat ∧
    testWork.sp.toNat + (drawing 0x00#32 .opcode).cfg.width.toNat ≤ testWork.send.toNat ∧
    (∀ i, i < (drawing 0x00#32 .opcode).cfg.width.toNat →
      (drawing 0x00#32 .opcode).mem.spr.read (testWork.sp.toNat + i) =
        some (if i = 0 then 0x02#8 else if i = 1 then 0x5A#8 else if i = 2 then 0xBB#8 else 0xFE#8)) ∧
    (drawing 0x00#32 .opcode).cfg.ltsel = 0#5 ∧ (drawing 0x00#32 .opcode).cfg.maskEn = false ∧
    (drawing 0x00#32 .opcode).cfg.mode ≠ 1#2 := by decide

end Sys2Proof.Tests
end

section
/-! PROOFS. Scope (spec/00_scope.md, R9): which instruction a step runs, how a literal run begins, and what follows each
of its pixels. -/

namespace Sys2Proof.Machine

/-! ### What a step fetches and runs -/

/-- A fetched instruction is run, and retired by the phase it was fetched in. -/
theorem step_of_fetch {s s' : State} {c : Code} {i : Instr} (hf : fetch s = .code c s') (hi : decode c = .ok i) :
    step s = retire s.phase (exec i s') := by
  simp only [step, hf, hi]

@[simp] theorem retire_run_next (t : State) : retire .run (.next t) = .next t.nextPixel := rfl
@[simp] theorem retire_fault (p : Phase) (f : Fault) : retire p (.fault f) = .fault f := rfl
@[simp] theorem retire_refused (p : Phase) (r : Refusal) : retire p (.refused r) = .refused r := rfl

/-- Outside a run nothing follows an instruction. -/
theorem retire_of_ne_run {p : Phase} (hp : p ≠ .run) (o : Host.Outcome State Fault Refusal) : retire p o = o := by
  cases o with
  | next t => simp only [retire, if_neg hp]
  | fault f => rfl
  | refused r => rfl

/-- A fetched instruction outside a run is the whole step. -/
theorem step_eq_exec {s s' : State} {c : Code} {i : Instr} (hp : s.phase ≠ .run) (hf : fetch s = .code c s')
    (hi : decode c = .ok i) : step s = exec i s' := by
  rw [step_of_fetch hf hi, retire_of_ne_run hp]

/-- An idle machine takes the host access at the head of its queue (R54, R121, R122). -/
theorem fetch_access {s : State} {a : BusAccess} {q : List HostAction} (hp : s.phase = .idle)
    (hq : s.pending = .access a :: q) : fetch s = .code (.bus a) (s.setPending q) := by
  simp only [fetch, hp, fetchHost, hq]

/-- The address of the control byte is `SP` modulo `2^AW` (R16, R18). -/
theorem WorkRegs.spAddr_toNat (w : WorkRegs) : w.spAddr.toNat = w.sp.toNat % 2 ^ 32 :=
  BitVec.toNat_setWidth _ _

/-- Inside an RLE row the control byte at `SP` is fetched (R73). -/
theorem fetch_controlByte {s : State} {c : Byte} (hp : s.phase = .opcode) (hx : s.w.x < s.cfg.width)
    (hf : s.cfg.opaqueFmt = false) (he : s.w.sp ≠ s.w.send) (hc : s.mem.spr.read s.w.spAddr.toNat = some c) :
    fetch s = .code (.c8 c) s := by
  have hread : s.mem.readByte .spr s.w.spAddr.toNat = .ok c := Spaces.readByte_spr.2 hc
  simp [fetch, hp, fetchOpcode, hx, hf, fetchControl, he, hread]

/-- Inside an opaque row there is no opcode byte to fetch (R62, R81). -/
theorem fetch_rawrow {s : State} (hp : s.phase = .opcode) (hx : s.w.x < s.cfg.width)
    (hf : s.cfg.opaqueFmt = true) : fetch s = .code .raw s := by
  simp [fetch, hp, fetchOpcode, hx, hf]

/-- A pixel survives clipping in a visible row, at an address of the valid range (R107, R108). -/
theorem State.pixVisible_iff {s : State} :
    s.pixVisible = true ↔
      s.w.vis = true ∧ s.cfg.fbLo.toNat ≤ s.pixAddr.toNat ∧ s.pixAddr.toNat < s.cfg.fbHi.toNat := by
  rw [State.pixVisible, Bool.and_eq_true, ConfigRegs.inFb_iff]

/-- Inside a run, a pixel that survives clipping has the operation of its selector (R66, R110). -/
theorem fetch_pixel {s : State} (hp : s.phase = .run) (hv : s.pixVisible = true) :
    fetch s = .code (.psel (s.psel s.pixPos)) s := by
  simp [fetch, hp, fetchPixel, hv]

/-- Settles O20, by the four places an instruction is fetched from. -/
theorem stepRunsDecodedInstruction : Obligations.StepRunsDecodedInstruction := by
  intro s i
  refine ⟨?host, ?control, ?raw, ?pixel⟩
  case host =>
    intro a q hp hq hi
    exact step_eq_exec (by simp [hp]) (fetch_access hp hq) hi
  case control =>
    intro c hp hx hf he hc hi
    rw [← WorkRegs.spAddr_toNat] at hc
    have hfetch := fetch_controlByte hp (BitVec.lt_def.2 hx) (ConfigRegs.opaqueFmt_eq_false.2 hf) he hc
    exact step_eq_exec (by simp [hp]) hfetch hi
  case raw =>
    intro hp hx hf hi
    have hfetch := fetch_rawrow hp (BitVec.lt_def.2 hx) (ConfigRegs.opaqueFmt_iff.2 hf)
    exact step_eq_exec (by simp [hp]) hfetch hi
  case pixel =>
    intro hp hvis hlo hhi hi
    have hstep : step s = retire .run (exec i s) := by
      rw [step_of_fetch (fetch_pixel hp (State.pixVisible_iff.2 ⟨hvis, hlo, hhi⟩)) hi, hp]
    exact ⟨fun t ht => by rw [hstep, ht, retire_run_next], fun f hf => by rw [hstep, hf, retire_fault],
      fun r hr => by rw [hstep, hr, retire_refused]⟩

/-! ### After a pixel -/

/-- Before the last pixel of a run only the position in it advances (R77). -/
theorem State.nextPixel_of_more {s : State} (h : s.pix.toNat + 1 < s.w.runLen.toNat) :
    s.nextPixel = { s with pix := s.pix + 1 } := by
  have hlast : s.pix + 1 ≠ s.w.runLen := fun e =>
    h.ne ((State.lastPixel_iff (Nat.lt_of_succ_lt h)).1 e)
  rw [State.nextPixel, if_neg hlast]

/-- After the last pixel the run ends (R78, R81). -/
theorem State.nextPixel_of_last {s : State} (h : s.pix.toNat + 1 = s.w.runLen.toNat) : s.nextPixel = s.endRun := by
  have hlast : s.pix + 1 = s.w.runLen := (State.lastPixel_iff (by omega)).2 h
  rw [State.nextPixel, if_pos hlast]

/-- The end of a run touches working registers and the phase alone. -/
theorem State.endRun_onlyWorkChanges (s : State) : OnlyWorkChanges s s.endRun where
  cfg := by simp
  st := by simp
  mem := by simp
  pending := by simp
  rdData := by simp

/-- Of the working registers the end of a run changes `X` and `SP` alone. -/
theorem State.endRun_w (s : State) : s.endRun.w = { s.w with x := s.endRun.w.x, sp := s.endRun.w.sp } := by
  unfold State.endRun
  split <;> rfl

/-- `X <- X + n` (R78), where the run fits the row. -/
theorem State.endRun_x_of_rle {s : State} (hf : s.cfg.opaqueFmt = false)
    (hx : s.w.x.toNat + s.w.runLen.toNat ≤ s.cfg.width.toNat) :
    s.endRun.w.x.toNat = s.w.x.toNat + s.w.runLen.toNat := by
  rw [State.endRun_w_x, hf, if_neg Bool.false_ne_true]
  exact BitVec.toNat_add_of_lt (hx.trans_lt s.cfg.width.isLt)

/-- A position keeps its number at the width of `SP`. -/
theorem Pos.toNat_setWidth_sptr (n : Pos) : (n.setWidth (Config.AW + 1)).toNat = n.toNat :=
  BitVec.toNat_setWidth_of_le (by decide)

/-- `SP + 1` as a number, below the bound of `SP` (R14). -/
theorem SPtr.toNat_succ {p : SPtr} (h : p.toNat + 1 < 2 ^ 33) : (p + 1).toNat = p.toNat + 1 :=
  BitVec.toNat_add_of_lt h

/-- `SP <- SP + 1 + n` (R78), where the sum does not wrap. -/
theorem State.endRun_sp_of_rle {s : State} (hf : s.cfg.opaqueFmt = false)
    (hsp : s.w.sp.toNat + 1 + s.w.runLen.toNat < 2 ^ 33) :
    s.endRun.w.sp.toNat = s.w.sp.toNat + 1 + s.w.runLen.toNat := by
  have hsucc : (s.w.sp + 1).toNat = s.w.sp.toNat + 1 := SPtr.toNat_succ (by omega)
  rw [State.endRun_w_sp, hf, if_neg Bool.false_ne_true, BitVec.toNat_add, Pos.toNat_setWidth_sptr, hsucc]
  exact Nat.mod_eq_of_lt hsp

/-- `SP <- SP + WIDTH` (R81), where the sum does not wrap. -/
theorem State.endRun_sp_of_opaque {s : State} (hf : s.cfg.opaqueFmt = true)
    (hsp : s.w.sp.toNat + s.cfg.width.toNat < 2 ^ 33) :
    s.endRun.w.sp.toNat = s.w.sp.toNat + s.cfg.width.toNat := by
  rw [State.endRun_w_sp, hf, if_pos rfl, BitVec.toNat_add, Pos.toNat_setWidth_sptr]
  exact Nat.mod_eq_of_lt hsp

/-- Settles O21: the position advances, or the run ends as the format says. -/
theorem nextPixelAdvancesRun : Obligations.NextPixelAdvancesRun := by
  intro s
  refine ⟨fun hmore => ?more, fun hlast hsp hx hraw => ?last⟩
  case more =>
    have hpix : s.pix + 1 = BitVec.ofNat 16 (s.pix.toNat + 1) := by
      rw [BitVec.ofNat_add, BitVec.ofNat_toNat, BitVec.setWidth_eq]
      rfl
    rw [State.nextPixel_of_more hmore, hpix]
  case last =>
    rw [State.nextPixel_of_last hlast]
    refine ⟨s.endRun_onlyWorkChanges, s.endRun_phase, s.endRun_pix, fun hf => ?rle, fun hf => ?rawrow, s.endRun_w⟩
    case rle =>
      have hf := ConfigRegs.opaqueFmt_eq_false.2 hf
      exact ⟨State.endRun_x_of_rle hf hx, State.endRun_sp_of_rle hf hsp⟩
    case rawrow =>
      have hf := ConfigRegs.opaqueFmt_iff.2 hf
      exact ⟨by rw [State.endRun_w_x, hf, if_pos rfl], State.endRun_sp_of_opaque hf hraw⟩

/-! ### The beginning of a literal run -/

/-- The check `limit - used < n` of R78 to R81 in numbers, `used` not being past `limit`. -/
theorem sub_lt_iff_toNat {k : Nat} {limit used n : BitVec k} (h : used.toNat ≤ limit.toNat) :
    limit - used < n ↔ limit.toNat < used.toNat + n.toNat := by
  rw [BitVec.lt_def, BitVec.toNat_sub_of_le (BitVec.le_def.2 h)]
  omega

/-- A run record touches working registers and the position in the draw alone. -/
theorem State.beginRun_onlyWorkChanges (s : State) (n : Pos) (src : Addr) : OnlyWorkChanges s (s.beginRun n src) :=
  ⟨rfl, rfl, rfl, rfl, rfl⟩

/-- Of the working registers a run record changes its own three alone (R77). -/
theorem State.beginRun_w (s : State) (n : Pos) (src : Addr) :
    (s.beginRun n src).w = { s.w with runKind := .literal, runLen := n, runSrc := src } := rfl

/-- `SP + 1` does not wrap while a byte of the extent is left. -/
theorem WorkRegs.sp_succ_toNat {w : WorkRegs} (h : w.sp.toNat < w.send.toNat) : (w.sp + 1).toNat = w.sp.toNat + 1 :=
  SPtr.toNat_succ (Nat.lt_of_le_of_lt h w.send.isLt)

/-- A `LIT` that fits the row and the extent ends in its run record (R78). -/
theorem execLit_fits {m : BitVec 7} {s : State} (hx : s.w.x.toNat + m.toNat ≤ s.cfg.width.toNat)
    (hsp : s.w.sp.toNat + 1 + m.toNat ≤ s.w.send.toNat) :
    execLit m s = .next (s.beginRun (litLen m) ((s.w.sp + 1).setWidth Config.AW)) := by
  have hsucc := WorkRegs.sp_succ_toNat (w := s.w) (by omega)
  obtain ⟨hover, -⟩ | ⟨-, htrunc, -⟩ | ⟨-, -, hbegin⟩ := execLit_cases m s
  · rw [sub_lt_iff_toNat (by omega), litLen_toNat] at hover
    omega
  · rw [sub_lt_iff_toNat (by omega), Pos.toNat_setWidth_sptr, litLen_toNat, hsucc] at htrunc
    omega
  · exact hbegin

/-- Settles O27. -/
theorem literalRunBegins : Obligations.LiteralRunBegins := by
  intro s m _ hx hsp
  have hsucc := WorkRegs.sp_succ_toNat (w := s.w) (by omega)
  have hsrc : ((s.w.sp + 1).setWidth Config.AW).toNat = (s.w.sp.toNat + 1) % 2 ^ 32 := by
    rw [BitVec.toNat_setWidth, hsucc]
  exact ⟨_, execLit_fits hx hsp, rfl, rfl, rfl, litLen_toNat m, hsrc, s.beginRun_w _ _,
    s.beginRun_onlyWorkChanges _ _⟩

/-- A `RAWROW` with a whole row left in the extent ends in its run record (R81). -/
theorem execRawrow_fits {s : State} (h : s.w.sp.toNat + s.cfg.width.toNat ≤ s.w.send.toNat) :
    execRawrow s = .next (s.beginRun s.cfg.width s.w.spAddr) := by
  obtain ⟨htrunc, -⟩ | ⟨-, hbegin⟩ := execRawrow_cases s
  · rw [sub_lt_iff_toNat (by omega), Pos.toNat_setWidth_sptr] at htrunc
    omega
  · exact hbegin

/-- A `RAWROW` with a partial row left in the extent takes `STREAM_TRUNC` (R81, R132). -/
theorem execRawrow_partial {s : State} (hle : s.w.sp.toNat ≤ s.w.send.toNat)
    (h : s.w.send.toNat < s.w.sp.toNat + s.cfg.width.toNat) :
    execRawrow s = .next (s.raiseStream .streamTrunc 0#8 0) := by
  obtain ⟨-, htrunc⟩ | ⟨hfits, -⟩ := execRawrow_cases s
  · exact htrunc
  · rw [sub_lt_iff_toNat hle, Pos.toNat_setWidth_sptr] at hfits
    exact absurd h hfits

/-- Settles O30, by whether a whole row is left. -/
theorem rawRowBeginsOrFaults : Obligations.RawRowBeginsOrFaults := by
  intro s hle
  refine ⟨fun hfits => ?fits, fun hpart => ?part⟩
  case fits =>
    exact ⟨_, execRawrow_fits hfits, rfl, rfl, rfl, rfl, s.w.spAddr_toNat, s.beginRun_w _ _,
      s.beginRun_onlyWorkChanges _ _⟩
  case part =>
    exact ⟨_, execRawrow_partial hle hpart, s.raiseStream_faultEntry .streamTrunc 0#8 0⟩

end Sys2Proof.Machine
end

section
/-! PROOFS. State (spec/10_state.md): the invariant, the sticky record, and what the host reads and stores. -/

namespace Sys2Proof.Machine

/-! ### What the stream opcodes can do -/

/-- The opcodes of a control byte: the reserved one, a skip, or a literal of at least one pixel (R60, R64). -/
theorem decodeC8_cases (c : Byte) :
    decodeC8 c = .rsvd0 ∨ (∃ m, decodeC8 c = .skip m) ∨ ∃ m, m ≠ 0#7 ∧ decodeC8 c = .lit m := by
  unfold decodeC8
  by_cases hzero : c = 0x00#8
  · exact .inl (if_pos hzero)
  · rw [if_neg hzero]
    cases hmsb : c.msb
    · refine .inr (.inr ⟨c.extractLsb' 0 7, fun hm => hzero (BitVec.eq_of_toNat_eq ?_), rfl⟩)
      have hlow : c.toNat % 128 = 0 := by
        simpa using congrArg BitVec.toNat hm
      have hlt : 2 * c.toNat < 2 ^ 8 := BitVec.msb_eq_false_iff_two_mul_lt.1 hmsb
      change c.toNat = 0
      omega
    · exact .inr (.inl ⟨_, rfl⟩)

/-- The opcode of a control byte faults, skips a run that fits the row, or begins a run that fits the row and the extent
(R78 to R80). -/
theorem exec_control_next {c : Byte} {s t : State} (h : exec (decodeC8 c) s = .next t) :
    (∃ k b x, k ≠ Cause.none ∧ t = s.raiseStream k b x) ∨
    (∃ n, ¬ s.cfg.width - s.w.x < n ∧ t = s.skipRun n) ∨
    ∃ n, n ≠ 0 ∧ ¬ s.cfg.width - s.w.x < n ∧ ¬ s.w.send - (s.w.sp + 1) < n.setWidth (Config.AW + 1) ∧
      t = s.beginRun n ((s.w.sp + 1).setWidth Config.AW) := by
  obtain hd | ⟨m, hd⟩ | ⟨m, hm, hd⟩ := decodeC8_cases c <;> rw [hd] at h
  · exact .inl ⟨_, _, _, by simp, (Host.Outcome.next.inj h).symm⟩
  · obtain ⟨-, ht⟩ | ⟨hx, ht⟩ := execSkip_cases m s <;> cases ht.symm.trans h
    · exact .inl ⟨_, _, _, by simp, rfl⟩
    · exact .inr (.inl ⟨_, hx, rfl⟩)
  · obtain ⟨-, ht⟩ | ⟨-, -, ht⟩ | ⟨hx, hsp, ht⟩ := execLit_cases m s <;> cases ht.symm.trans h
    · exact .inl ⟨_, _, _, by simp, rfl⟩
    · exact .inl ⟨_, _, _, by simp, rfl⟩
    · refine .inr (.inr ⟨_, fun hn => hm (BitVec.eq_of_toNat_eq ?_), hx, hsp, rfl⟩)
      rw [← litLen_toNat, hn]
      rfl

/-- An opaque row faults, or begins a run of `WIDTH` pixels that fits the extent (R81). -/
theorem exec_rawrow_next {s t : State} (h : exec .rawrow s = .next t) :
    (∃ k b x, k ≠ Cause.none ∧ t = s.raiseStream k b x) ∨
    (¬ s.w.send - s.w.sp < s.cfg.width.setWidth (Config.AW + 1) ∧ t = s.beginRun s.cfg.width s.w.spAddr) := by
  obtain ⟨-, ht⟩ | ⟨hsp, ht⟩ := execRawrow_cases s <;> cases ht.symm.trans h
  · exact .inl ⟨_, _, _, by simp, rfl⟩
  · exact .inr ⟨hsp, rfl⟩

/-! ### The invariant -/

/-- With a byte of the extent left the stream pointer is below its end. -/
theorem State.InDraw.sp_lt {s : State} (h : s.InDraw) (he : s.w.sp ≠ s.w.send) : s.w.sp.toNat < s.w.send.toNat :=
  lt_of_le_of_ne h.sp_high fun e => he (BitVec.eq_of_toNat_eq e)

/-- Storing to a configuration register keeps its reserved bits 0 (R121). -/
theorem ConfigRegs.ReservedZero.write {c : ConfigRegs} (h : c.ReservedZero) (q : Reg) (v : Reg32) :
    (c.write q v).ReservedZero := by
  cases q with
  | ctrl => simp [ConfigRegs.ReservedZero, ConfigRegs.write, BitVec.and_assoc]
  | _ => exact h

/-- The status clear leaves the record zero where it leaves no fault latched (R126). -/
theorem StatusRegs.RecordMatches.statusClear {s : State} (h : s.st.RecordMatches) (v : Reg32) :
    (s.statusClear v).st.RecordMatches := by
  cases hv : v[1]
  · exact ⟨by simpa [hv] using h.pc, by simpa [hv] using h.row, by simpa [hv] using h.x⟩
  · exact ⟨by simp [hv], by simp [hv], by simp [hv]⟩

/-- The queue is no part of the invariant. -/
theorem State.Inv.setPending {s : State} (h : s.Inv) (hp : s.phase = .idle) (q : List HostAction) :
    (s.setPending q).Inv :=
  .of_idle h.spaces h.reserved h.record hp

/-- A host command keeps the invariant (R121 to R126). -/
theorem State.Inv.hostCommand {s t : State} {a : BusAccess} {i : Instr} (h : s.Inv) (hp : s.phase = .idle)
    (hi : decodeAccess a = .ok i) (ht : exec i s = .next t) : t.Inv := by
  obtain rfl | rfl | ⟨v, rfl⟩ | ⟨q, v, rfl⟩ | ⟨v, rfl⟩ := exec_bus_next hi ht
  · exact h
  · exact h.startDraw hp
  · exact .of_idle (by simpa using h.spaces) (by simpa using h.reserved) (h.record.statusClear v) (by simpa using hp)
  · exact .of_idle h.spaces (h.reserved.write q v) h.record hp
  · exact .of_idle h.spaces h.reserved h.record hp

/-- A skip run that fits its row keeps the invariant (R79). -/
theorem State.Inv.skipRun {s : State} {n : Pos} (h : s.Inv) (hp : s.phase = .opcode)
    (hf : s.cfg.opaqueFmt = false) (he : s.w.sp ≠ s.w.send)
    (hx : s.w.x.toNat + n.toNat ≤ s.cfg.width.toNat) : (s.skipRun n).Inv := by
  have hd := h.draw (by simp [hp])
  have hrow := h.row (.inl hp)
  have hlt := hd.sp_lt he
  have hsp : (s.skipRun n).w.sp.toNat = s.w.sp.toNat + 1 := WorkRegs.sp_succ_toNat hlt
  refine ⟨h.spaces, h.reserved, h.record, fun _ => ?draw, fun _ => ?row, fun hrun => ?run⟩
  case draw => exact hd.congr rfl rfl rfl (by omega) (by simp only [State.skipRun_w_send]; omega) rfl rfl rfl
  case row =>
    refine ⟨?_, hrow.vis_eq, hrow.rowLimit, hrow.noMask, fun hop => absurd (hf.symm.trans hop) (by simp)⟩
    exact (BitVec.toNat_add_of_lt (hx.trans_lt s.cfg.width.isLt)).trans_le hx
  case run => exact absurd (hp.symm.trans hrun) (by simp)

/-- The opcode of a control byte keeps the invariant (R78 to R80). -/
theorem State.Inv.control {s t : State} {c : Byte} (h : s.Inv) (hp : s.phase = .opcode)
    (hf : s.cfg.opaqueFmt = false) (he : s.w.sp ≠ s.w.send) (ht : exec (decodeC8 c) s = .next t) : t.Inv := by
  have hlt := (h.draw (by simp [hp])).sp_lt he
  have hrow := h.row (.inl hp)
  obtain ⟨k, b, x, hk, rfl⟩ | ⟨n, hx, rfl⟩ | ⟨n, hn, hx, hsp, rfl⟩ := exec_control_next ht
  · exact h.raiseStream hk
  · exact h.skipRun hp hf he (hrow.width_le hx)
  · have hsucc := WorkRegs.sp_succ_toNat hlt
    rw [sub_lt_iff_toNat (by omega), Pos.toNat_setWidth_sptr, hsucc] at hsp
    refine h.beginRun hp hn (hrow.width_le hx) ?_ (fun _ => rfl)
      fun hop => absurd (hf.symm.trans hop) (by simp)
    simp only [State.runBytes, State.beginRun_cfg, hf, Bool.false_eq_true, if_false, State.beginRun_w_runLen]
    omega

/-- An opaque row keeps the invariant: it is at its first pixel, since it was not at its end (R81). -/
theorem State.Inv.rawrow {s t : State} (h : s.Inv) (hp : s.phase = .opcode) (hx : s.w.x < s.cfg.width)
    (hf : s.cfg.opaqueFmt = true) (ht : exec .rawrow s = .next t) : t.Inv := by
  have hd := h.draw (by simp [hp])
  have hx0 : s.w.x = 0 := ((h.row (.inl hp)).wholeRow hf).resolve_right (BitVec.ne_of_lt hx)
  obtain ⟨-, -, -, hwidth, -⟩ := ConfigRegs.startCheck_none hd.checked
  obtain ⟨k, b, x, hk, rfl⟩ | ⟨hsp, rfl⟩ := exec_rawrow_next ht
  · exact h.raiseStream hk
  · rw [sub_lt_iff_toNat hd.sp_high, Pos.toNat_setWidth_sptr] at hsp
    refine h.beginRun hp hwidth (by simp [hx0]) ?_
      (fun hop => absurd (hf.symm.trans hop) (by simp)) fun _ => ⟨rfl, hx0, rfl⟩
    simp only [State.runBytes, State.beginRun_cfg, hf, if_true, State.beginRun_w_runLen]
    omega

/-- Settles O43, by the cases of the step. -/
theorem stepKeepsInvariant : Obligations.StepKeepsInvariant := by
  intro s t h hstep
  cases step_cases hstep with
  | hostIdle => exact h
  | hostPoke sp a v q hp hq ht =>
    have hc := State.pokeByte_canonical ht h.spaces
    obtain ⟨-, rfl⟩ := State.pokeByte_eq_next.1 ht
    exact .of_idle hc h.reserved h.record hp
  | hostPokeMask i u q hp => exact .of_idle (State.pokeMaskWord_canonical i u h.spaces) h.reserved h.record hp
  | hostCommand a q i hp hq hi ht => exact (h.setPending hp q).hostCommand hp hi ht
  | frameEnd hp => exact .of_idle h.spaces h.reserved ⟨h.record.pc, h.record.row, h.record.x⟩ rfl
  | maskRows => exact h.raiseStream (by simp)
  | rowMasked u hp he hm hr => exact h.beginRow hp (fun _ => hr) fun hm' => absurd (hm'.symm.trans hm) (by simp)
  | rowUnmasked hp he hm => exact h.beginRow hp (fun hm' => absurd (hm.symm.trans hm') (by simp)) fun _ => rfl
  | rowEnd hp => exact h.endRow hp
  | fetchTrunc => exact h.raiseStream (by simp)
  | rawrow hp hx hf ht => exact h.rawrow hp hx hf ht
  | control c hp hx hf he hc ht => exact h.control hp hf he ht
  | pixelClipped hp => exact h.nextPixel hp
  | pixelOp i hp hv hi ht =>
    obtain rfl | ⟨v, rfl⟩ := exec_psel_next hi ht
    · exact h.nextPixel hp
    · exact h.writeFb.nextPixel hp

/-! ### The spaces -/

/-- Settles O44, by the cases of the step: only the stores change a space, and each stores where the space has a
location. -/
theorem stepKeepsSpacesCanonical : Obligations.StepKeepsSpacesCanonical := by
  intro s t h hstep
  cases step_cases hstep with
  | hostIdle => exact h
  | hostPoke sp a v q hp hq ht => exact State.pokeByte_canonical ht h
  | hostPokeMask i u q => exact State.pokeMaskWord_canonical i u h
  | hostCommand a q i hp hq hi ht =>
    obtain rfl | rfl | ⟨v, rfl⟩ | ⟨r, v, rfl⟩ | ⟨v, rfl⟩ := exec_bus_next hi ht <;> simpa using h
  | frameEnd => exact h
  | maskRows | fetchTrunc => simpa using h
  | rowMasked | rowUnmasked | rowEnd => exact h
  | rawrow hp hx hf ht =>
    obtain ⟨k, b, x, -, rfl⟩ | ⟨-, rfl⟩ := exec_rawrow_next ht <;> simpa using h
  | control c hp hx hf he hc ht =>
    obtain ⟨k, b, x, -, rfl⟩ | ⟨n, -, rfl⟩ | ⟨n, -, -, -, rfl⟩ := exec_control_next ht <;> simpa using h
  | pixelClipped => simpa using h
  | pixelOp i hp hv hi ht =>
    obtain rfl | ⟨v, rfl⟩ := exec_psel_next hi ht
    · simpa using h
    · simpa using State.writeFb_canonical _ v h

/-! ### The sticky record -/

/-- `CAUSE` and the three registers of its record are the same in two states (R28, R29). -/
structure SameRecord (s t : State) : Prop where
  cause : t.st.cause = s.st.cause
  pc : t.st.faultPc = s.st.faultPc
  row : t.st.faultRow = s.st.faultRow
  x : t.st.faultX = s.st.faultX

theorem SameRecord.of_st_eq {s t : State} (h : t.st = s.st) : SameRecord s t := by
  constructor <;> rw [h]

/-- Fault entry keeps a record that stands (R134, R137). -/
theorem SameRecord.raise {s : State} (h : s.st.cause ≠ .none) (c : Cause) (pc row : Addr) (fx : Reg32) :
    SameRecord s (s.raise c pc row fx) := by
  obtain ⟨hc, hpc, hrow, hx⟩ := (s.raise_faultEntry c pc row fx).kept h
  exact ⟨hc, hpc, hrow, hx⟩

theorem SameRecord.raiseStream {s : State} (h : s.st.cause ≠ .none) (c : Cause) (ctl : Byte) (x : Pos) :
    SameRecord s (s.raiseStream c ctl x) := .raise h _ _ _ _

/-- `START` keeps a record that stands, refused or not (R123, R131). -/
theorem SameRecord.startDraw {s : State} (h : s.st.cause ≠ .none) : SameRecord s s.startDraw := by
  unfold State.startDraw
  split
  · exact ⟨rfl, rfl, rfl, rfl⟩
  · obtain ⟨hc, hpc, hrow, hx⟩ := SameRecord.raise (s := s.clearForDraw) h s.cfg.startCheck 0 0 0
    exact ⟨hc, hpc, hrow, hx⟩

/-- A status clear without bit 1 keeps the record (R126). -/
theorem SameRecord.statusClear {s : State} {v : Reg32} (hv : v.getLsbD 1 = false) : SameRecord s (s.statusClear v) := by
  constructor <;> simp only [State.statusClear_st_cause, State.statusClear_st_faultPc, State.statusClear_st_faultRow,
    State.statusClear_st_faultX, hv, Bool.false_eq_true, if_false]

/-- The accesses the decoder accepts, with their commands (R67, R121, R122). -/
theorem decodeAccess_eq_ok {a : BusAccess} {i : Instr} (h : decodeAccess a = .ok i) :
    (∃ off, a = .read .word off ∧ i = .rd off) ∨
    (∃ v, a = .write .word 0x24#8 v ∧ i = .start v) ∨
    (∃ v, a = .write .word 0x28#8 v ∧ i = .statusClr v) ∨
    ∃ off v, off ≠ 0x24#8 ∧ off ≠ 0x28#8 ∧ a = .write .word off v ∧ i = .wr off v := by
  unfold decodeAccess at h
  split at h
  · split at h <;> cases h
    exact .inl ⟨_, rfl, rfl⟩
  · split at h
    · split at h
      · rename_i hoff
        cases h
        exact .inr (.inl ⟨_, by rw [hoff], rfl⟩)
      · split at h
        · rename_i hoff
          cases h
          exact .inr (.inr (.inl ⟨_, by rw [hoff], rfl⟩))
        · cases h
          exact .inr (.inr (.inr ⟨_, _, ‹_›, ‹_›, rfl, rfl⟩))
    · cases h
  · cases h
  · cases h

theorem Reg.ofOffset_eq_start {off : BitVec 8} : Reg.ofOffset off = some .start ↔ off = 0x24#8 := by
  revert off
  decide

theorem Reg.ofOffset_eq_status {off : BitVec 8} : Reg.ofOffset off = some .status ↔ off = 0x28#8 := by
  revert off
  decide

/-- A register write elsewhere than at `START` and `STATUS` leaves the status registers (R121). -/
theorem exec_wr_st {off : BitVec 8} {v : Reg32} {s t : State} (h24 : off ≠ 0x24#8) (h28 : off ≠ 0x28#8)
    (h : exec (.wr off v) s = .next t) : t.st = s.st := by
  simp only [exec, execWr] at h
  split at h
  · exact absurd (Reg.ofOffset_eq_start.1 ‹_›) h24
  · exact absurd (Reg.ofOffset_eq_status.1 ‹_›) h28
  · cases h; rfl
  · cases h; rfl

/-- A host command keeps a record that stands, a write to `STATUS` with bit 1 set apart (R126, R136). -/
theorem SameRecord.hostCommand {s t : State} {a : BusAccess} {i : Instr} (h : s.st.cause ≠ .none)
    (hi : decodeAccess a = .ok i) (ht : exec i s = .next t) :
    SameRecord s t ∨ ∃ v, a = .write .word 0x28#8 v ∧ v.getLsbD 1 = true := by
  obtain ⟨off, -, rfl⟩ | ⟨v, -, rfl⟩ | ⟨v, ha, rfl⟩ | ⟨off, v, h24, h28, -, rfl⟩ := decodeAccess_eq_ok hi
  · cases ht
    exact .inl (.of_st_eq rfl)
  · cases ht
    exact .inl (.startDraw h)
  · cases ht
    cases hv : v.getLsbD 1
    · exact .inl (.statusClear hv)
    · exact .inr ⟨v, ha, hv⟩
  · exact .inl (.of_st_eq (exec_wr_st h24 h28 ht))

/-- A step keeps a record that stands, a host write to `STATUS` with bit 1 set apart. -/
theorem StepTo.sameRecord {s t : State} (h : s.st.cause ≠ .none) (hst : StepTo s t) :
    SameRecord s t ∨
    (s.phase = .idle ∧ ∃ v q, s.pending = .access (.write .word 0x28#8 v) :: q ∧ v.getLsbD 1 = true) := by
  cases hst with
  | hostIdle => exact .inl (.of_st_eq rfl)
  | hostPoke sp a v q hp hq ht =>
    obtain ⟨-, rfl⟩ := State.pokeByte_eq_next.1 ht
    exact .inl (.of_st_eq rfl)
  | hostPokeMask => exact .inl (.of_st_eq rfl)
  | hostCommand a q i hp hq hi ht =>
    obtain hsame | ⟨v, rfl, hv⟩ := SameRecord.hostCommand (s := s.setPending q) h hi ht
    · exact .inl ⟨hsame.cause, hsame.pc, hsame.row, hsame.x⟩
    · exact .inr ⟨hp, v, q, hq, hv⟩
  | frameEnd => exact .inl ⟨rfl, rfl, rfl, rfl⟩
  | maskRows | fetchTrunc => exact .inl (.raiseStream h _ _ _)
  | rowMasked | rowUnmasked => exact .inl (.of_st_eq rfl)
  | rowEnd => exact .inl ⟨rfl, rfl, rfl, rfl⟩
  | rawrow hp hx hf ht =>
    obtain ⟨k, b, x, -, rfl⟩ | ⟨-, rfl⟩ := exec_rawrow_next ht
    · exact .inl (.raiseStream h _ _ _)
    · exact .inl (.of_st_eq rfl)
  | control c hp hx hf he hc ht =>
    obtain ⟨k, b, x, -, rfl⟩ | ⟨n, -, rfl⟩ | ⟨n, -, -, -, rfl⟩ := exec_control_next ht
    · exact .inl (.raiseStream h _ _ _)
    · exact .inl (.of_st_eq rfl)
    · exact .inl (.of_st_eq rfl)
  | pixelClipped => exact .inl (.of_st_eq s.nextPixel_st)
  | pixelOp i hp hv hi ht =>
    obtain rfl | ⟨v, rfl⟩ := exec_psel_next hi ht <;> exact .inl (.of_st_eq (State.nextPixel_st _))

/-- Settles O47, by what a step does to a record that stands. -/
theorem latchedFaultIsSticky : Obligations.LatchedFaultIsSticky := by
  intro s t h hstep
  exact ((step_cases hstep).sameRecord h).imp_left fun hsame => ⟨hsame.cause, hsame.pc, hsame.row, hsame.x⟩

/-! ### The stream pointer -/

/-- The end of a run moves `SP` past its encoded bytes (R78, R81). -/
theorem State.InRun.endRun_sp {s : State} (h : s.InRun) : s.endRun.w.sp.toNat = s.w.sp.toNat + s.runBytes := by
  have hbytes := h.bytes
  have hsend : s.w.send.toNat < 2 ^ 33 := s.w.send.isLt
  cases hf : s.cfg.opaqueFmt
  · simp only [State.runBytes, hf, Bool.false_eq_true, if_false] at hbytes ⊢
    rw [State.endRun_sp_of_rle hf (by omega)]
    omega
  · obtain ⟨-, -, hlen⟩ := h.src_raw hf
    simp only [State.runBytes, hf, if_true, hlen] at hbytes ⊢
    exact State.endRun_sp_of_opaque hf (by omega)

/-- Going on after a pixel never moves `SP` back. -/
theorem State.InRun.sp_le_nextPixel {s : State} (h : s.InRun) : s.w.sp.toNat ≤ s.nextPixel.w.sp.toNat := by
  rw [State.nextPixel_w_sp]
  split
  · rw [h.endRun_sp]
    exact Nat.le_add_right _ _
  · exact le_rfl

/-- Settles O49: `SP` moves in a skip run and at the end of a literal run alone. -/
theorem streamPointerNeverMovesBack : Obligations.StreamPointerNeverMovesBack := by
  intro s t h hidle hstep
  cases step_cases hstep with
  | hostIdle hp | hostPoke _ _ _ _ hp | hostPokeMask _ _ _ hp | hostCommand _ _ _ hp => exact absurd hp hidle
  | frameEnd | rowMasked | rowUnmasked | rowEnd => exact le_rfl
  | maskRows | fetchTrunc => rw [State.raiseStream_w]
  | rawrow hp hx hf ht =>
    obtain ⟨k, b, x, -, rfl⟩ | ⟨-, rfl⟩ := exec_rawrow_next ht
    · rw [State.raiseStream_w]
    · exact le_rfl
  | control c hp hx hf he hc ht =>
    obtain ⟨k, b, x, -, rfl⟩ | ⟨n, -, rfl⟩ | ⟨n, -, -, -, rfl⟩ := exec_control_next ht
    · rw [State.raiseStream_w]
    · rw [State.skipRun_w_sp, WorkRegs.sp_succ_toNat ((h.draw hidle).sp_lt he)]
      exact Nat.le_succ _
    · exact le_rfl
  | pixelClipped hp => exact (h.run hp).sp_le_nextPixel
  | pixelOp i hp hv hi ht =>
    obtain rfl | ⟨v, rfl⟩ := exec_psel_next hi ht
    · exact (h.run hp).sp_le_nextPixel
    · exact (h.writeFb.run hp).sp_le_nextPixel

/-! ### What the host stores -/

/-- Replacing the content of a space of bytes is seen in that space alone. -/
theorem Spaces.get_set (m : Spaces) (sp sp' : ByteSpace) (c : Memory) :
    (m.set sp c).get sp' = if sp' = sp then c else m.get sp' := by
  cases sp <;> cases sp' <;> rfl

theorem Spaces.set_msk (m : Spaces) (sp : ByteSpace) (c : Memory) : (m.set sp c).msk = m.msk := by
  cases sp <;> rfl

/-- A byte read depends on the one location of the one space. -/
theorem Spaces.readByte_congr {m m' : Spaces} {sp : ByteSpace} {a : Nat} (h : (m.get sp).read a = (m'.get sp).read a) :
    m.readByte sp a = m'.readByte sp a := by
  simp only [Spaces.readByte, h]

/-- A mask fetch depends on the one word. -/
theorem Spaces.readMask_congr {m m' : Spaces} {i : Nat} (h : m.msk.read i = m'.msk.read i) :
    m.readMask i = m'.readMask i := by
  simp only [Spaces.readMask, h]

/-- A byte store leaves every other location of every space of bytes (R41). -/
theorem Spaces.readByte_set_write_other (m : Spaces) {sp sp' : ByteSpace} {a b : Nat} (v : Byte)
    (h : (sp', b) ≠ (sp, a)) : (m.set sp ((m.get sp).write a v)).readByte sp' b = m.readByte sp' b := by
  apply Spaces.readByte_congr
  by_cases hsp : sp' = sp
  · subst hsp
    have hb : b ≠ a := fun hb => h (by rw [hb])
    rw [Spaces.get_set, if_pos rfl, Cells.read_write_other _ v hb]
  · rw [Spaces.get_set, if_neg hsp]

/-- An idle step with a byte store at the head of the queue is that store. -/
theorem step_poke {s : State} {sp : ByteSpace} {a : Addr} {v : Byte} {q : List HostAction} (hp : s.phase = .idle)
    (hq : s.pending = .poke sp a v :: q) : step s = (s.setPending q).pokeByte sp a v := by
  simp only [step, fetch, hp, fetchHost, hq]

/-- An idle step with a mask-word store at the head of the queue is that store. -/
theorem step_pokeMask {s : State} {i : MaskIndex} {u : MaskWord} {q : List HostAction} (hp : s.phase = .idle)
    (hq : s.pending = .pokeMask i u :: q) : step s = .next ((s.setPending q).pokeMaskWord i u) := by
  simp only [step, fetch, hp, fetchHost, hq]

/-- Settles O19: a store is read back where it was made, and seen nowhere else. -/
theorem hostStoreIsReadBack : Obligations.HostStoreIsReadBack := by
  intro s q hp
  refine ⟨fun sp a v hq ha => ?byte, fun i u hq => ?word⟩
  case byte =>
    refine ⟨_, (step_poke hp hq).trans (State.pokeByte_eq_next.2 ⟨ha, rfl⟩), ?_,
      fun sp' b hb => Spaces.readByte_set_write_other s.mem v hb, fun i => ?_, rfl, rfl, rfl, rfl, rfl⟩
    · exact Spaces.readByte_eq_ok.2 ⟨ha, by rw [Spaces.get_set, if_pos rfl, Cells.read_write_same]⟩
    · exact Spaces.readMask_congr (by rw [Spaces.set_msk]; rfl)
  case word =>
    refine ⟨_, step_pokeMask hp hq, ?_, fun j hj => ?_, fun sp b => ?_, rfl, rfl, rfl, rfl, rfl⟩
    · exact Spaces.readMask_eq_ok.2 ⟨i.isLt, Cells.read_write_same _ _ _⟩
    · exact Spaces.readMask_congr (Cells.read_write_other _ u hj)
    · cases sp <;> rfl

/-! ### Host accesses that are refused -/

/-- An idle step refuses an access at the head of the queue that the decoder rejects, by its name (R31). -/
theorem step_access_refused {s : State} {a : BusAccess} {q : List HostAction} {r : Reject} (hp : s.phase = .idle)
    (hq : s.pending = .access a :: q) (hr : decodeAccess a = .error r) : step s = .refused (.undecodable r) := by
  simp only [step, fetch_access hp hq, decode, hr]

/-- A register offset is a multiple of 4 (R20). -/
theorem alignedOffset_iff {off : BitVec 8} : alignedOffset off = true ↔ off.toNat % 4 = 0 := by
  revert off
  decide

theorem alignedOffset_eq_false {off : BitVec 8} (h : off.toNat % 4 ≠ 0) : alignedOffset off = false :=
  Bool.eq_false_iff.2 (mt alignedOffset_iff.1 h)

/-- Settles O6, by what the decoder rejects. -/
theorem narrowHostAccessRefused : Obligations.NarrowHostAccessRefused := by
  intro s a q hp hq
  refine ⟨fun off ha => ?_, fun off v ha => ?_, fun off ha hoff => ?_, fun off v ha hoff => ?_⟩ <;>
    apply step_access_refused hp hq
  · obtain rfl | rfl := ha <;> rfl
  · obtain rfl | rfl := ha <;> rfl
  · rw [ha, decodeAccess, alignedOffset_eq_false hoff, if_neg Bool.false_ne_true]
  · rw [ha, decodeAccess, alignedOffset_eq_false hoff, if_neg Bool.false_ne_true]

/-! ### `STATUS` as read -/

/-- A concatenation as a number. -/
theorem toNat_append_eq_add {k l : Nat} (a : BitVec k) (b : BitVec l) :
    (a ++ b).toNat = a.toNat * 2 ^ l + b.toNat := by
  rw [BitVec.toNat_append, ← Nat.shiftLeft_add_eq_or_of_lt b.isLt, Nat.shiftLeft_eq]

theorem Cause.code_eq_zero {c : Cause} : c.code = 0 ↔ c = .none := by
  cases c <;> decide

/-- Settles O11: `STATUS` is the sum of its fields at their places (R28). -/
theorem statusWordFields : Obligations.StatusWordFields := by
  refine ⟨fun t => ⟨?_, Cause.code_eq_zero⟩, rfl⟩
  have hfault : t.fault = !decide (t.cause = .none) := rfl
  simp only [StatusRegs.word, toNat_append_eq_add, BitVec.toNat_ofBool, hfault]
  by_cases hc : t.cause = .none <;> cases t.done <;> simp [hc] <;> omega

/-! ### A configuration register read back -/

/-- The writable bits of the configuration registers (R20, R21, R23, R26); the others have none. -/
def Reg.writable : Reg → Reg32
  | .ctrl => ctrlMask
  | .width => 0xFFFF#32
  | .maskAddr => 0xFF#32
  | .srcAddr | .srcLen | .dstAddr | .pitch | .fbLo | .fbHi => 0xFFFFFFFF#32
  | .start | .status | .faultPc | .faultRow | .faultX | .rowsDone => 0#32

/-- Narrowing a word to its low `k` bits and widening it again masks it. -/
theorem setWidth_setWidth_eq_and {k : Nat} (hk : k ≤ 32) (v : Reg32) :
    (v.setWidth k).setWidth 32 = v &&& BitVec.ofNat 32 (2 ^ k - 1) := by
  have hpow : 2 ^ k ≤ 2 ^ 32 := Nat.pow_le_pow_right (by decide) hk
  have hpos : 0 < 2 ^ k := Nat.two_pow_pos k
  apply BitVec.eq_of_toNat_eq
  rw [BitVec.toNat_setWidth_of_le hk, BitVec.toNat_setWidth, BitVec.toNat_and, BitVec.toNat_ofNat,
    Nat.mod_eq_of_lt (by omega : 2 ^ k - 1 < 2 ^ 32), Nat.and_two_pow_sub_one_eq_mod]

/-- A configuration register reads back what was written, reserved bits 0 (R121, R122). -/
theorem State.readReg_writeReg {q : Reg} (hq : q.writable ≠ 0) (s : State) (v : Reg32) :
    (s.writeReg q v).readReg q = v &&& q.writable := by
  cases q with
  | ctrl => exact (BitVec.and_assoc v _ _).trans (by rw [BitVec.and_self]; rfl)
  | width => exact setWidth_setWidth_eq_and (k := 16) (by decide) v
  | maskAddr => exact setWidth_setWidth_eq_and (k := 8) (by decide) v
  | srcAddr | srcLen | dstAddr | pitch | fbLo | fbHi => exact setWidth_setWidth_eq_and (k := 32) (by decide) v
  | start | status | faultPc | faultRow | faultX | rowsDone => exact absurd rfl hq

/-- A write at the offset of a configuration register stores to it (R121). -/
theorem exec_wr_config {off : BitVec 8} {q : Reg} (hoff : Reg.ofOffset off = some q) (hq : q.writable ≠ 0)
    (v : Reg32) (s : State) : exec (.wr off v) s = .next (s.writeReg q v) := by
  simp only [exec, execWr, hoff]
  cases q with
  | start | status => exact absurd rfl hq
  | _ => rfl

/-- The offsets up to `0x20` are those of the configuration registers, with their writable bits (R20). -/
theorem Reg.ofOffset_config {off : BitVec 8} (hle : off.toNat ≤ 0x20) (hal : off.toNat % 4 = 0) :
    ∃ q ∈ Reg.ofOffset off, q.writable ≠ 0 ∧ q.writable =
      (if off = 0x00#8 then 0x1F1F#32 else if off = 0x0C#8 then 0xFFFF#32 else if off = 0x20#8 then 0xFF#32
       else 0xFFFFFFFF#32) := by
  revert off
  decide

/-- Settles O13, through the register that the offset names. -/
theorem writtenRegisterReadsBack : Obligations.WrittenRegisterReadsBack := by
  intro s t off v hle hal ht
  obtain ⟨q, hoff, hq, hmask⟩ := Reg.ofOffset_config hle hal
  cases (exec_wr_config hoff hq v s).symm.trans ht
  have hread : (s.writeReg q v).readOffset off = v &&& q.writable := by
    rw [State.readOffset, hoff]
    exact State.readReg_writeReg hq s v
  rw [← hmask, ← hread]
  rfl

/-! ### Row start -/

/-- At the head of the loop with bytes left the step is row start (R70, R72). -/
theorem step_eq_rowStart {s : State} (hp : s.phase = .rowTop) (he : s.w.sp ≠ s.w.send) : step s = rowStart s := by
  simp only [step, fetch, hp, loopHead, if_neg he]

/-- The check of R107 in numbers. -/
theorem State.rowVisible_eq (s : State) :
    s.rowVisible = decide (s.cfg.fbLo.toNat ≤ s.w.drow.toNat ∧ s.w.drow.toNat < s.cfg.fbHi.toNat) :=
  Bool.eq_iff_iff.2 (ConfigRegs.inFb_iff.trans decide_eq_true_iff.symm)

/-- Row start, its writes, with the check of R107 in numbers. -/
theorem State.beginRow_eq (s : State) (u : MaskWord) :
    s.beginRow u = { s with
      w := { s.w with
             mw := u
             vis := decide (s.cfg.fbLo.toNat ≤ s.w.drow.toNat ∧ s.w.drow.toNat < s.cfg.fbHi.toNat)
             x := 0 }
      phase := .opcode } := by
  rw [State.beginRow, State.rowVisible_eq]

/-- Settles O23, by the three cases of row start. -/
theorem rowStartPreparesRow : Obligations.RowStartPreparesRow := by
  intro s hp he
  rw [step_eq_rowStart hp he]
  refine ⟨fun hm hr => ?limit, fun u hm hr hi hu => ?masked, fun hm => ?unmasked⟩
  case limit =>
    exact ⟨_, by rw [rowStart, if_pos hm, if_pos hr], s.raiseStream_faultEntry .maskRows 0#8 0⟩
  case masked =>
    have hread : s.mem.readMask s.maskIndex = .ok u := Spaces.readMask_eq_ok.2 ⟨hi, hu⟩
    rw [rowStart, if_pos hm, if_neg (Nat.not_le.2 hr), hread, withValue_ok, State.beginRow_eq]
  case unmasked =>
    rw [rowStart, hm, if_neg Bool.false_ne_true, State.beginRow_eq]

end Sys2Proof.Machine
end

section
/-! PROOFS. Memory (spec/20_memory.md): the spaces after reset, the address of a pixel, and which locations of SPR, LT
and BL a draw reads. -/

namespace Sys2Proof.Machine

/-! ### Reset -/

/-- After reset a byte of a space has no value (R144). -/
theorem State.reset_readByte {sp : ByteSpace} {a : Nat} (h : a < sp.size) :
    State.reset.mem.readByte sp a = .error (.noValue sp a) := by
  refine Spaces.readByte_eq_error.2 (.inl ⟨h, ?_, rfl⟩)
  cases sp <;> rfl

/-- After reset a mask word has no value (R144). -/
theorem State.reset_readMask {i : Nat} (h : i < Config.MSK_WORDS) :
    State.reset.mem.readMask i = .error (.noMaskWord i) := by
  rw [Spaces.readMask, if_pos h]
  rfl

/-- Settles O8. -/
theorem resetSpacesHoldNoValue : Obligations.ResetSpacesHoldNoValue :=
  ⟨fun _ _ => State.reset_readByte, fun _ => State.reset_readMask⟩

/-! ### The address of a pixel -/

/-- The address of a row position is `DROW` plus the position, modulo `2^AW` (R46). -/
theorem State.fbAddr_toNat (s : State) (x : Pos) : (s.fbAddr x).toNat = (s.w.drow.toNat + x.toNat) % 2 ^ 32 := by
  rw [State.fbAddr, BitVec.toNat_add, BitVec.toNat_setWidth_of_le (by decide)]

/-- In an opaque row the row position is the position in the run (R81). -/
theorem State.pixPos_of_opaque {s : State} (h : s.cfg.opaqueFmt = true) : s.pixPos = s.pix := by
  rw [State.pixPos, if_pos h]

/-- In a `LIT` the row position is `X` plus the position in the run (R78). -/
theorem State.pixPos_toNat_of_rle {s : State} (h : s.cfg.opaqueFmt = false)
    (hx : s.w.x.toNat + s.pix.toNat < 65536) : s.pixPos.toNat = s.w.x.toNat + s.pix.toNat := by
  rw [State.pixPos, h, if_neg Bool.false_ne_true]
  exact BitVec.toNat_add_of_lt hx

/-- Settles O40, by the format of the stream. -/
theorem pixelAddressWraps : Obligations.PixelAddressWraps := by
  intro s
  refine ⟨fun hf hx => ?rle, fun hf => ?rawrow⟩
  case rle =>
    rw [State.pixAddr, State.fbAddr_toNat, State.pixPos_toNat_of_rle (ConfigRegs.opaqueFmt_eq_false.2 hf) hx]
  case rawrow =>
    rw [State.pixAddr, State.fbAddr_toNat, State.pixPos_of_opaque (ConfigRegs.opaqueFmt_iff.2 hf)]

/-! ### What a draw reads -/

/-- The locations, those of the surface apart, whose content the meaning of an instruction may depend on (R45, R47,
R48). -/
inductive Instr.Reads (s : State) : Instr → ByteSpace → Nat → Prop where
  | copyPayload (b : Bool) : Reads s (.pixCopy b) .spr s.payloadAddr.toNat
  | remapPayload (b : Bool) : Reads s (.pixRemap b) .spr s.payloadAddr.toNat
  | remapEntry (b : Bool) (v : Byte) : Reads s (.pixRemap b) .lt (ltAddr s.cfg.ltsel v)
  | blendEntry (lc : BitVec 2) (d : Byte) : Reads s (.pixBlend0 lc) .bl (blAddr d 0#8)

/-- The locations, those of the surface apart, whose content a step of a draw may depend on: the control byte at `SP`
(R73), or what the pixel's operation reads (R110). -/
inductive State.Reads (s : State) : ByteSpace → Nat → Prop where
  | control (hp : s.phase = .opcode) (hf : s.cfg.opaqueFmt = false) (he : s.w.sp ≠ s.w.send) :
      Reads s .spr s.w.spAddr.toNat
  | pixel {sp : ByteSpace} {a : Nat} (i : Instr) (hp : s.phase = .run) (hi : decodePsel (s.psel s.pixPos) = .ok i)
      (ha : Instr.Reads s i sp a) : Reads s sp a

/-- The same machine with another content of one space of bytes. -/
def State.withSpace (s : State) (sp : ByteSpace) (c : Memory) : State := s.withMem (s.mem.set sp c)

theorem State.withSpr_eq_withSpace (s : State) (c : Memory) : s.withSpr c = s.withSpace .spr c := rfl
theorem State.withLt_eq_withSpace (s : State) (c : Memory) : s.withLt c = s.withSpace .lt c := rfl
theorem State.withBl_eq_withSpace (s : State) (c : Memory) : s.withBl c = s.withSpace .bl c := rfl

/-- A read of another space, or of a location where the new content agrees, is the same. -/
theorem Spaces.readByte_set {m : Spaces} {sp sp' : ByteSpace} {c : Memory} {a : Nat}
    (h : sp' = sp → c.read a = (m.get sp).read a) : (m.set sp c).readByte sp' a = m.readByte sp' a := by
  apply Spaces.readByte_congr
  rw [Spaces.get_set]
  split
  · rename_i hsp
    rw [h hsp, hsp]
  · rfl

/-- A store to the surface commutes with another content of another space. -/
theorem State.writeFb_withSpace {sp : ByteSpace} (hsp : sp ≠ .fb) (s : State) (c : Memory) (a : Addr) (v : Byte) :
    (s.withSpace sp c).writeFb a v = (s.writeFb a v).withSpace sp c := by
  cases sp with
  | spr | lt | bl => rfl
  | fb => exact absurd rfl hsp

/-- An outcome that depends on a test, with its state changed. -/
@[simp] theorem mapNext_ite (f : State → State) (p : Prop) [Decidable p] (o o' : Host.Outcome State Fault Refusal) :
    mapNext f (if p then o else o') = if p then mapNext f o else mapNext f o' :=
  apply_ite _ _ _ _

/-- What was fetched, with its state changed. -/
def Fetched.map (f : State → State) : Fetched → Fetched
  | .code k s => .code k (f s)
  | .act o => .act (mapNext f o)

section OtherContent

variable {s : State} {sp : ByteSpace} {c : Memory}

@[simp] theorem State.withSpace_cfg : (s.withSpace sp c).cfg = s.cfg := rfl
@[simp] theorem State.withSpace_w : (s.withSpace sp c).w = s.w := rfl
@[simp] theorem State.withSpace_phase : (s.withSpace sp c).phase = s.phase := rfl
@[simp] theorem State.withSpace_pixAddr : (s.withSpace sp c).pixAddr = s.pixAddr := rfl

/-- The meaning of an instruction depends on the content of a space other than the surface only at the locations that
`Instr.Reads` lists. -/
theorem exec_withSpace (hsp : sp ≠ .fb) (i : Instr)
    (h : ∀ a, Instr.Reads s i sp a → c.read a = (s.mem.get sp).read a) :
    exec i (s.withSpace sp c) = mapNext (·.withSpace sp c) (exec i s) := by
  have hpayload : Instr.Reads s i .spr s.payloadAddr.toNat → (s.withSpace sp c).payload = s.payload := fun hr =>
    Spaces.readByte_set fun e => h _ (e ▸ hr)
  cases i with
  | rsvd0 => simp [exec, execRsvd0, State.withSpace]
  | lit m => simp [exec, execLit, State.withSpace]
  | skip m => simp [exec, execSkip, State.withSpace]
  | rawrow => simp [exec, execRawrow, State.withSpace]
  | pixCopy b => simp [exec, execPixCopy, hpayload (.copyPayload b), State.writeFb_withSpace hsp]
  | pixRemap b =>
    have hentry (v : Byte) : (s.withSpace sp c).mem.lookupLt s.cfg.ltsel v = s.mem.lookupLt s.cfg.ltsel v :=
      Spaces.readByte_set fun e => h _ (e ▸ .remapEntry b v)
    simp [exec, execPixRemap, hpayload (.remapPayload b), hentry, State.writeFb_withSpace hsp]
  | pixFill0 b => simp [exec, execPixFill0, State.writeFb_withSpace hsp]
  | pixBlend0 lc =>
    have hsurface : (s.withSpace sp c).surface = s.surface := Spaces.readByte_set fun e => absurd e.symm hsp
    have hentry (d : Byte) : (s.withSpace sp c).mem.blend0 d = s.mem.blend0 d :=
      Spaces.readByte_set fun e => h _ (e ▸ .blendEntry lc d)
    simp [exec, execPixBlend0, hsurface, hentry, State.writeFb_withSpace hsp]
  | pixKeep lc => rfl
  | start v => simp [exec, execStart, State.withSpace]
  | statusClr v => simp [exec, execStatusClr, State.withSpace]
  | wr off v =>
    simp only [exec, execWr]
    split <;> simp [State.withSpace]
  | rd off => simp [exec, execRd, State.withSpace]

/-- Frame end and row start depend on the content of no space of bytes (R71, R72). -/
theorem loopHead_withSpace : loopHead (s.withSpace sp c) = mapNext (·.withSpace sp c) (loopHead s) := by
  have hmask : (s.mem.set sp c).readMask s.maskIndex = s.mem.readMask s.maskIndex :=
    Spaces.readMask_congr (by rw [Spaces.set_msk])
  simp [loopHead, rowStart, State.withSpace, hmask]

/-- The fetch inside a row depends on the content of SPR at the control byte alone (R73, R81). -/
theorem fetchOpcode_withSpace (hp : s.phase = .opcode)
    (h : ∀ a, s.Reads sp a → c.read a = (s.mem.get sp).read a) :
    fetchOpcode (s.withSpace sp c) = (fetchOpcode s).map (·.withSpace sp c) := by
  by_cases hx : s.w.x < s.cfg.width
  · cases hf : s.cfg.opaqueFmt
    · by_cases he : s.w.sp = s.w.send
      · simp [fetchOpcode, hx, hf, fetchControl, he, Fetched.map, State.withSpace]
      · have hread : (s.withSpace sp c).mem.readByte .spr s.w.spAddr.toNat = s.mem.readByte .spr s.w.spAddr.toNat :=
          Spaces.readByte_set fun e => h _ (e ▸ .control hp hf he)
        simp only [fetchOpcode, State.withSpace_w, State.withSpace_cfg, hx, hf, fetchControl, he, hread, if_true,
          if_false, Bool.false_eq_true]
        cases s.mem.readByte .spr s.w.spAddr.toNat <;> rfl
    · simp [fetchOpcode, hx, hf, Fetched.map]
  · simp [fetchOpcode, hx, Fetched.map, State.withSpace]

/-- The fetch of a pixel depends on the content of no space (R66, R110). -/
theorem fetchPixel_withSpace : fetchPixel (s.withSpace sp c) = (fetchPixel s).map (·.withSpace sp c) := by
  cases hv : s.pixVisible <;> simp [fetchPixel, hv, Fetched.map, State.withSpace]

/-- A fetch of a draw depends on the content of a space of bytes only at the locations that `State.Reads` lists. -/
theorem fetch_withSpace (hp : s.phase ≠ .idle) (h : ∀ a, s.Reads sp a → c.read a = (s.mem.get sp).read a) :
    fetch (s.withSpace sp c) = (fetch s).map (·.withSpace sp c) := by
  unfold fetch
  rw [State.withSpace_phase]
  cases hph : s.phase with
  | idle => exact absurd hph hp
  | rowTop => exact congrArg Fetched.act loopHead_withSpace
  | opcode => exact fetchOpcode_withSpace hph h
  | run => exact fetchPixel_withSpace

/-- What follows an instruction depends on the content of no space (R77). -/
theorem retire_mapNext_withSpace (p : Phase) (o : Host.Outcome State Fault Refusal) :
    retire p (mapNext (·.withSpace sp c) o) = mapNext (·.withSpace sp c) (retire p o) := by
  cases o with
  | next t => simp [retire, State.withSpace]
  | fault f => rfl
  | refused r => rfl

/-- A draw fetches a control byte, an opaque row, or the selector of a pixel, each in its own state. -/
theorem fetch_code_cases {s' : State} {k : Code} (hp : s.phase ≠ .idle) (hf : fetch s = .code k s') :
    s' = s ∧ ((∃ b, k = .c8 b) ∨ k = .raw ∨ s.phase = .run ∧ k = .psel (s.psel s.pixPos)) := by
  unfold fetch at hf
  cases hph : s.phase <;> simp only [hph, reduceCtorEq] at hf
  case idle => exact absurd hph hp
  case opcode =>
    unfold fetchOpcode fetchControl at hf
    split at hf
    · split at hf
      · cases hf
        exact ⟨rfl, .inr (.inl rfl)⟩
      · split at hf
        · cases hf
        · split at hf <;> cases hf
          exact ⟨rfl, .inl ⟨_, rfl⟩⟩
    · cases hf
  case run =>
    unfold fetchPixel at hf
    split at hf <;> cases hf
    exact ⟨rfl, .inr (.inr ⟨rfl, rfl⟩)⟩

/-- The opcode of a control byte reads no space. -/
theorem Instr.not_reads_decodeC8 {b : Byte} {a : Nat} : ¬ Instr.Reads s (decodeC8 b) sp a := by
  obtain hd | ⟨m, hd⟩ | ⟨m, -, hd⟩ := decodeC8_cases b <;> rw [hd] <;> nofun

/-- What an instruction of a draw reads is among what the step that fetches it reads. -/
theorem Instr.Reads.of_fetch {s' : State} {k : Code} {i : Instr} {a : Nat} (ha : Instr.Reads s i sp a)
    (hp : s.phase ≠ .idle) (hf : fetch s = .code k s') (hi : decode k = .ok i) : s.Reads sp a := by
  obtain ⟨-, ⟨b, rfl⟩ | rfl | ⟨hrun, rfl⟩⟩ := fetch_code_cases hp hf
  · cases hi
    exact absurd ha Instr.not_reads_decodeC8
  · cases hi
    nomatch ha
  · exact .pixel i hrun hi ha

/-- A step of a draw depends on the content of a space other than the surface only at the locations that `State.Reads`
lists. -/
theorem step_withSpace (hsp : sp ≠ .fb) (hp : s.phase ≠ .idle)
    (h : ∀ a, s.Reads sp a → c.read a = (s.mem.get sp).read a) :
    step (s.withSpace sp c) = mapNext (·.withSpace sp c) (step s) := by
  unfold step
  rw [fetch_withSpace hp h, State.withSpace_phase]
  cases hf : fetch s with
  | act o => rfl
  | code k s' =>
    cases hi : decode k with
    | error r => simp [Fetched.map, hi]
    | ok i =>
      obtain ⟨rfl, -⟩ := fetch_code_cases hp hf
      have hexec := exec_withSpace hsp i fun a ha => h a (ha.of_fetch hp hf hi)
      simp only [Fetched.map, hi, hexec, retire_mapNext_withSpace]

end OtherContent

/-! ### Where the reads of a draw are -/

/-- The selector of a table lookup is formed for light class 1 (R66). -/
theorem lightClass_of_decode_remap {e b b' : Bool} {lc : BitVec 2}
    (h : decodePsel (pselOf e b lc) = .ok (.pixRemap b')) : lc = 1#2 := by
  revert e b b' lc
  decide

/-- Light class 1 is that of a table other than 0 and 15 (R66). -/
theorem table_of_lightClass {sel : BitVec 5} (h : lightClass sel = 1#2) :
    0 < sel.toNat ∧ sel.toNat ≠ 15 ∧ sel.toNat < 20 := by
  revert sel
  decide

/-- A draw reads LT in tables 1 to 14 and 16 to 19 alone (R47, R87). -/
theorem State.Reads.lt_table {s : State} {a : Nat} (h : s.Reads .lt a) :
    256 ≤ a ∧ a < 15 * 256 ∨ 16 * 256 ≤ a ∧ a < 20 * 256 := by
  obtain _ | ⟨i, hp, hi, ha⟩ := h
  obtain _ | _ | ⟨b, v⟩ := ha
  obtain ⟨hpos, hne, hlt⟩ := table_of_lightClass (lightClass_of_decode_remap hi)
  have hv : v.toNat < 256 := v.isLt
  simp only [ltAddr, Config.NPAL]
  omega

/-- A draw reads BL in column 0 alone (R48). -/
theorem State.Reads.bl_column {s : State} {a : Nat} (h : s.Reads .bl a) : ∃ d < 256, a = d * 256 := by
  obtain _ | ⟨i, hp, hi, ha⟩ := h
  obtain _ | _ | _ | ⟨lc, d⟩ := ha
  exact ⟨d.toNat, d.isLt, by simp [blAddr]⟩

/-- `SEND` is an address, or the one past the last (R124, R125). -/
theorem State.InDraw.send_le {s : State} (h : s.InDraw) : s.w.send.toNat ≤ 2 ^ 32 := by
  obtain ⟨-, -, -, -, -, hsend, -⟩ := ConfigRegs.startCheck_none h.checked
  rw [h.send_eq]
  exact hsend

/-- Inside the extent `SP` is its own address. -/
theorem State.InDraw.spAddr_eq {s : State} (h : s.InDraw) (hlt : s.w.sp.toNat < s.w.send.toNat) :
    s.w.spAddr.toNat = s.w.sp.toNat := by
  rw [WorkRegs.spAddr_toNat]
  exact Nat.mod_eq_of_lt (hlt.trans_le h.send_le)

/-- The pixel bytes of a literal run end where its encoded bytes end (R63, R77). -/
theorem State.InRun.runSrc_add_runLen {s : State} (h : s.InRun) (hd : s.InDraw) :
    s.w.runSrc.toNat + s.w.runLen.toNat = s.w.sp.toNat + s.runBytes := by
  have hpix := h.pix_lt
  have hbytes := h.bytes
  have hsend := hd.send_le
  cases hf : s.cfg.opaqueFmt
  · simp only [State.runBytes, hf, Bool.false_eq_true, if_false] at hbytes ⊢
    have hlt : s.w.sp.toNat + 1 < 2 ^ Config.AW := by simp only [Config.AW]; omega
    rw [h.src_lit hf, BitVec.toNat_setWidth, WorkRegs.sp_succ_toNat (by omega), Nat.mod_eq_of_lt hlt]
    omega
  · obtain ⟨hsrc, -, -⟩ := h.src_raw hf
    simp only [State.runBytes, hf, if_true] at hbytes ⊢
    rw [hsrc, hd.spAddr_eq (by omega)]

/-- The payload byte of a pixel is one of its run's encoded bytes (R45, R77). -/
theorem State.InRun.payloadAddr_mem {s : State} (h : s.InRun) (hd : s.InDraw) :
    s.w.sp.toNat ≤ s.payloadAddr.toNat ∧ s.payloadAddr.toNat < s.w.send.toNat := by
  have hsrc := h.runSrc_add_runLen hd
  have hpix := h.pix_lt
  have hbytes := h.bytes
  have hsend := hd.send_le
  have hlen : s.w.runLen.toNat ≤ s.runBytes := by
    unfold State.runBytes
    split <;> omega
  have haddr : s.payloadAddr.toNat = s.w.runSrc.toNat + s.pix.toNat := by
    rw [State.payloadAddr, BitVec.toNat_add, BitVec.toNat_setWidth_of_le (by decide)]
    exact Nat.mod_eq_of_lt (by simp only [Config.AW]; omega)
  omega

/-- An instruction reads SPR at the payload byte of the pixel alone (R45). -/
theorem Instr.Reads.spr_eq {s : State} {i : Instr} {a : Nat} (h : Instr.Reads s i .spr a) :
    a = s.payloadAddr.toNat := by
  cases h <;> rfl

/-- A draw reads SPR in `[SRC_ADDR, SEND)` alone (R75): a control byte before the end of the extent, or a byte of a run
that fits it. -/
theorem State.Reads.spr_extent {s : State} {a : Nat} (h : s.Reads .spr a) (hinv : s.Inv) (hp : s.phase ≠ .idle) :
    s.cfg.srcAddr.toNat ≤ a ∧ a < s.w.send.toNat := by
  have hd := hinv.draw hp
  have hlow := hd.sp_low
  cases h with
  | control hop hf he =>
    have hlt := hd.sp_lt he
    rw [hd.spAddr_eq hlt]
    exact ⟨hlow, hlt⟩
  | pixel i hrun hi ha =>
    obtain ⟨hle, hlt⟩ := (hinv.run hrun).payloadAddr_mem hd
    rw [ha.spr_eq]
    exact ⟨hlow.trans hle, hlt⟩

/-- Settles O50: the reads of SPR are inside the extent. -/
theorem streamReadsStayInExtent : Obligations.StreamReadsStayInExtent := by
  intro s m hinv hp h
  simp only [State.withSpr_eq_withSpace]
  refine step_withSpace (by decide) hp fun a ha => ?_
  obtain ⟨hlow, hhigh⟩ := ha.spr_extent hinv hp
  exact h a hlow hhigh

/-- Settles O51: the reads of LT are outside tables 0 and 15. -/
theorem bypassedLightTablesNeverRead : Obligations.BypassedLightTablesNeverRead := by
  intro s m hp h
  simp only [State.withLt_eq_withSpace]
  exact step_withSpace (by decide) hp fun a ha => h a ha.lt_table

/-- Settles O52: the reads of BL are in column 0. -/
theorem onlyBlendColumnZeroRead : Obligations.OnlyBlendColumnZeroRead := by
  intro s m hp h
  simp only [State.withBl_eq_withSpace]
  refine step_withSpace (by decide) hp fun a ha => ?_
  obtain ⟨d, hd, rfl⟩ := ha.bl_column
  exact h d hd

end Sys2Proof.Machine
end

section
/-! PROOFS. Encoding (spec/30_encoding.md): the decoder and the encoder are inverse to each other, and a selector names
its pixel's operation. From what their codes decode to follows what the pixel procedure and a host command do. -/

namespace Sys2Proof.Machine

/-! ### Control bytes -/

/-- The field `K` of a control byte (R59). -/
theorem controlByte_msb (k : Bool) (m : BitVec 7) : (controlByte k m).msb = k :=
  BitVec.msb_append.trans (by simp)

/-- The field `M` of a control byte (R59). -/
theorem controlByte_magnitude (k : Bool) (m : BitVec 7) : (controlByte k m).extractLsb' 0 7 = m :=
  BitVec.extractLsb'_append_eq_right

/-- A control byte is made of its two fields (R59). -/
theorem controlByte_of_fields (c : Byte) : controlByte c.msb (c.extractLsb' 0 7) = c := by
  apply BitVec.eq_of_toNat_eq
  have hlow : (c.extractLsb' 0 7).toNat = c.toNat % 128 := by simp
  have hlt : c.toNat < 256 := c.isLt
  have hhigh : c.msb = decide (128 ≤ c.toNat) := BitVec.msb_eq_decide c
  rw [controlByte_toNat, hlow, hhigh]
  by_cases h : 128 ≤ c.toNat
  · rw [decide_eq_true h, if_pos rfl]
    omega
  · rw [decide_eq_false h, if_neg Bool.false_ne_true]
    omega

/-- The byte `0x00` alone has both fields 0 (R64). -/
theorem controlByte_eq_zero {k : Bool} {m : BitVec 7} : controlByte k m = 0x00#8 ↔ k = false ∧ m = 0#7 := by
  constructor
  · intro h
    exact ⟨by rw [← controlByte_msb k m, h]; rfl, by rw [← controlByte_magnitude k m, h]; rfl⟩
  · rintro ⟨rfl, rfl⟩
    rfl

/-- The opcode of a control byte, by its two fields (R59, R64). -/
theorem decodeC8_controlByte (k : Bool) (m : BitVec 7) :
    decodeC8 (controlByte k m) = if k then .skip m else if m = 0#7 then .rsvd0 else .lit m := by
  simp only [decodeC8, controlByte_eq_zero, controlByte_msb, controlByte_magnitude]
  cases k <;> simp

/-- Settles O3, by the field `K`; the run lengths are those of the field `M`. -/
theorem controlByteGivesKindAndLength : Obligations.ControlByteGivesKindAndLength := by
  intro c
  obtain ⟨k, m, rfl⟩ : ∃ k m, controlByte k m = c := ⟨_, _, controlByte_of_fields c⟩
  have hm : m.toNat < 128 := m.isLt
  rw [controlByte_toNat, decodeC8_controlByte]
  cases k
  case false =>
    simp only [Bool.false_eq_true, if_false, Nat.zero_add]
    refine ⟨fun hzero => if_pos (BitVec.eq_of_toNat_eq hzero), fun ⟨hpos, _⟩ => ?_, fun h => ?_⟩
    · have hne : m ≠ 0#7 := BitVec.toNat_ne.2 hpos.ne'
      exact ⟨m, if_neg hne, litLen_toNat m⟩
    · omega
  case true =>
    simp only [if_true]
    refine ⟨fun h => ?_, fun h => ?_, fun _ => ⟨m, rfl, ?_⟩⟩
    · omega
    · omega
    · rw [skipLen_toNat]
      omega

/-! ### Selectors -/

/-- The effective bit of a selector (R66). -/
theorem pselOf_e (e b : Bool) (lc : BitVec 2) : (pselOf e b lc).getLsbD 3 = e := by
  simp only [pselOf, BitVec.getLsbD_append]
  simp

/-- The mode bit of a selector (R66). -/
theorem pselOf_b (e b : Bool) (lc : BitVec 2) : (pselOf e b lc).getLsbD 2 = b := by
  simp only [pselOf, BitVec.getLsbD_append]
  simp

/-- The light class of a selector (R66). -/
theorem pselOf_lc (e b : Bool) (lc : BitVec 2) : (pselOf e b lc).extractLsb' 0 2 = lc :=
  BitVec.extractLsb'_append_eq_right

/-- A selector is made of its three fields (R66). -/
theorem pselOf_of_fields (p : BitVec 4) : pselOf (p.getLsbD 3) (p.getLsbD 2) (p.extractLsb' 0 2) = p := by
  revert p
  decide

/-- The table of R66: the operation a selector names, by its three fields. -/
theorem decodePsel_pselOf (e b : Bool) (lc : BitVec 2) :
    decodePsel (pselOf e b lc) =
      if e then
        if lc = 0#2 then .ok (.pixCopy b)
        else if lc = 1#2 then .ok (.pixRemap b)
        else if lc = 2#2 then .ok (.pixFill0 b)
        else .error .selectorNeverFormed
      else if b then .ok (.pixBlend0 lc)
      else .ok (.pixKeep lc) := by
  simp only [decodePsel, pselOf_e, pselOf_b, pselOf_lc]

/-! ### Decode after encode -/

/-- A write of a whole register other than `START` and `STATUS` is a `WR` (R31, R67). -/
theorem decodeAccess_wr {off : BitVec 8} {v : Reg32} (h : (Instr.wr off v).wellFormed = true) :
    decodeAccess (.write .word off v) = .ok (.wr off v) := by
  simp only [Instr.wellFormed, Bool.and_eq_true, bne_iff_ne] at h
  obtain ⟨⟨hal, h24⟩, h28⟩ := h
  rw [decodeAccess, if_pos hal, if_neg h24, if_neg h28]

/-- Settles O1, by the instruction: in each format the fields of its code are its operands. -/
theorem decodeOfEncodeIsIdentity : Obligations.DecodeOfEncodeIsIdentity := by
  intro i hwf
  cases i with
  | rsvd0 | rawrow => rfl
  | lit m =>
    have hm : m ≠ 0#7 := bne_iff_ne.1 hwf
    simp only [encode, decode, decodeC8_controlByte, hm, if_false, Bool.false_eq_true]
  | skip m => simp only [encode, decode, decodeC8_controlByte, if_true]
  | pixCopy _ | pixRemap _ | pixFill0 _ | pixBlend0 _ | pixKeep _ => simp [encode, decode, decodePsel_pselOf]
  | start v | statusClr v => rfl
  | wr off v => exact decodeAccess_wr hwf
  | rd off => exact if_pos hwf

/-- A code that is the encoding of a well-formed instruction decodes to it. -/
theorem decode_of_encode_eq {i : Instr} {c : Code} (hwf : i.wellFormed = true) (h : encode i = c) :
    decode c = .ok i := by
  rw [← h]
  exact decodeOfEncodeIsIdentity i hwf

/-- Settles O5: each code is the encoding of its instruction. -/
theorem encodingsOfEachFormatDecode : Obligations.EncodingsOfEachFormatDecode :=
  ⟨decode_of_encode_eq rfl rfl, decode_of_encode_eq rfl rfl, decode_of_encode_eq rfl rfl, decode_of_encode_eq rfl rfl,
    decode_of_encode_eq rfl rfl, decode_of_encode_eq rfl rfl, decode_of_encode_eq rfl rfl, decode_of_encode_eq rfl rfl,
    decode_of_encode_eq rfl rfl, decode_of_encode_eq rfl rfl⟩

/-! ### Encode after decode -/

/-- The opcode of a control byte keeps both its fields (R64). -/
theorem encode_decodeC8 (c : Byte) : (decodeC8 c).wellFormed = true ∧ encode (decodeC8 c) = .c8 c := by
  obtain ⟨k, m, rfl⟩ : ∃ k m, controlByte k m = c := ⟨_, _, controlByte_of_fields c⟩
  rw [decodeC8_controlByte]
  cases k
  case false =>
    by_cases hm : m = 0#7
    · subst hm
      exact ⟨rfl, rfl⟩
    · simp [hm, Instr.wellFormed, encode]
  case true => exact ⟨rfl, rfl⟩

/-- The operation of a selector keeps all its fields (R66). -/
theorem encode_of_decodePsel {p : BitVec 4} {i : Instr} (h : decodePsel p = .ok i) :
    i.wellFormed = true ∧ encode i = .psel p := by
  obtain ⟨e, b, lc, rfl⟩ : ∃ e b lc, pselOf e b lc = p := ⟨_, _, _, pselOf_of_fields p⟩
  rw [decodePsel_pselOf] at h
  cases e
  case true =>
    rw [if_pos rfl] at h
    split_ifs at h with h0 h1 h2
    · cases h
      exact ⟨rfl, by rw [h0]; rfl⟩
    · cases h
      exact ⟨rfl, by rw [h1]; rfl⟩
    · cases h
      exact ⟨rfl, by rw [h2]; rfl⟩
  case false => cases b <;> cases h <;> exact ⟨rfl, rfl⟩

/-- A host command keeps the offset and the value of its access, which is at a register boundary (R31, R67). -/
theorem encode_of_decodeAccess {a : BusAccess} {i : Instr} (h : decodeAccess a = .ok i) :
    i.wellFormed = true ∧ encode i = .bus a := by
  unfold decodeAccess at h
  split at h
  case h_1 off =>
    split_ifs at h with hal
    cases h
    exact ⟨hal, rfl⟩
  case h_2 off v =>
    split_ifs at h with hal h24 h28 <;> cases h
    · exact ⟨rfl, by rw [h24]; rfl⟩
    · exact ⟨rfl, by rw [h28]; rfl⟩
    · exact ⟨by simp [Instr.wellFormed, hal, h24, h28], rfl⟩
  case h_3 | h_4 => cases h

/-- Settles O2, by the format of the code. -/
theorem encodeOfDecodeIsIdentity : Obligations.EncodeOfDecodeIsIdentity := by
  intro c i h
  cases c with
  | c8 c =>
    cases h
    exact encode_decodeC8 c
  | raw =>
    cases h
    exact ⟨rfl, rfl⟩
  | psel p => exact encode_of_decodePsel h
  | bus a => exact encode_of_decodeAccess h

/-! ### The selector of a pixel -/

/-- Level 0 has light class 0 (R66). -/
theorem lightClass_of_eq_zero {sel : BitVec 5} (h : sel.toNat = 0) : lightClass sel = 0#2 :=
  if_pos (BitVec.eq_of_toNat_eq h)

/-- Level 15 has light class 2 (R66). -/
theorem lightClass_of_eq_fifteen {sel : BitVec 5} (h : sel.toNat = 15) : lightClass sel = 2#2 := by
  rw [show sel = 15#5 from BitVec.eq_of_toNat_eq h]
  rfl

/-- A level or special table that is read has light class 1 (R66). -/
theorem lightClass_of_table {sel : BitVec 5} (h0 : sel.toNat ≠ 0) (h15 : sel.toNat ≠ 15) (h20 : sel.toNat < 20) :
    lightClass sel = 1#2 := by
  rw [lightClass, if_neg (BitVec.toNat_ne.2 h0), if_neg (BitVec.toNat_ne.2 h15), if_pos (BitVec.lt_def.2 h20)]

section Selector

variable {s : State} {x : Pos}

/-- A set effective bit at level 0 selects `PIX_COPY` (R66). -/
theorem decode_psel_copy (he : s.ebit x = true) (h : s.cfg.ltsel.toNat = 0) :
    decode (.psel (s.psel x)) = .ok (.pixCopy s.cfg.blended) := by
  simp [decode, State.psel, decodePsel_pselOf, he, lightClass_of_eq_zero h]

/-- A set effective bit at level 15 selects `PIX_FILL0` (R66). -/
theorem decode_psel_fill (he : s.ebit x = true) (h : s.cfg.ltsel.toNat = 15) :
    decode (.psel (s.psel x)) = .ok (.pixFill0 s.cfg.blended) := by
  simp [decode, State.psel, decodePsel_pselOf, he, lightClass_of_eq_fifteen h]

/-- A set effective bit at any other level or special table selects `PIX_REMAP` (R66). -/
theorem decode_psel_remap (he : s.ebit x = true) (h0 : s.cfg.ltsel.toNat ≠ 0) (h15 : s.cfg.ltsel.toNat ≠ 15)
    (h20 : s.cfg.ltsel.toNat < 20) : decode (.psel (s.psel x)) = .ok (.pixRemap s.cfg.blended) := by
  simp [decode, State.psel, decodePsel_pselOf, he, lightClass_of_table h0 h15 h20]

/-- A clear effective bit in blended mode selects `PIX_BLEND0` (R66). -/
theorem decode_psel_blend (he : s.ebit x = false) (hb : s.cfg.mode = 2#2) :
    decode (.psel (s.psel x)) = .ok (.pixBlend0 (lightClass s.cfg.ltsel)) := by
  simp [decode, State.psel, decodePsel_pselOf, he, ConfigRegs.blended, hb]

/-- A clear effective bit in another mode selects `PIX_KEEP` (R66). -/
theorem decode_psel_keep (he : s.ebit x = false) (hb : s.cfg.mode ≠ 2#2) :
    decode (.psel (s.psel x)) = .ok (.pixKeep (lightClass s.cfg.ltsel)) := by
  simp [decode, State.psel, decodePsel_pselOf, he, ConfigRegs.blended, hb]

end Selector

/-- Settles O4, by the rows of the table of R66. -/
theorem selectorNamesPixelOperation : Obligations.SelectorNamesPixelOperation := by
  intro s x h20
  exact ⟨decode_psel_copy, decode_psel_fill, fun he h0 h15 => decode_psel_remap he h0 h15 h20,
    fun he hb => ⟨_, decode_psel_blend he hb⟩, fun he hb => ⟨_, decode_psel_keep he hb⟩⟩

/-! ### The pixel procedure -/

/-- Level 0 is the identity (R87). -/
theorem Spaces.light_of_eq_zero {sel : BitVec 5} (h : sel.toNat = 0) (m : Spaces) (v : Byte) :
    m.light sel v = .ok v :=
  if_pos (BitVec.eq_of_toNat_eq h)

/-- Level 15 is the constant 0 (R87). -/
theorem Spaces.light_of_eq_fifteen {sel : BitVec 5} (h : sel.toNat = 15) (m : Spaces) (v : Byte) :
    m.light sel v = .ok 0#8 := by
  rw [show sel = 15#5 from BitVec.eq_of_toNat_eq h]
  rfl

/-- Every other light select is a table lookup (R87). -/
theorem Spaces.light_of_table {sel : BitVec 5} (h0 : sel.toNat ≠ 0) (h15 : sel.toNat ≠ 15) (m : Spaces) (v : Byte) :
    m.light sel v = m.lookupLt sel v := by
  rw [Spaces.light, if_neg (BitVec.toNat_ne.2 h0), if_neg (BitVec.toNat_ne.2 h15)]

/-- What follows an instruction that goes on with a value follows each of its continuations. -/
theorem retire_withValue {α : Type} (p : Phase) (r : Except Fault α) (k : α → Host.Outcome State Fault Refusal) :
    retire p (withValue r k) = withValue r fun v => retire p (k v) := by
  cases r <;> rfl

/-- The operation that a set effective bit selects stores `LIGHT` of the payload byte (R87, R110, R112 to R114). -/
theorem psel_stores_light {s : State} {x : Pos} {v : Byte} (he : s.ebit x = true) (h20 : s.cfg.ltsel.toNat < 20)
    (hv : s.payload = .ok v) :
    ∃ i, decode (.psel (s.psel x)) = .ok i ∧
      exec i s = withValue (s.mem.light s.cfg.ltsel v) fun u => .next (s.writeFb s.pixAddr u) := by
  by_cases h0 : s.cfg.ltsel.toNat = 0
  · refine ⟨_, decode_psel_copy he h0, ?_⟩
    rw [Spaces.light_of_eq_zero h0, exec, execPixCopy, hv, withValue_ok]
  · by_cases h15 : s.cfg.ltsel.toNat = 15
    · refine ⟨_, decode_psel_fill he h15, ?_⟩
      rw [Spaces.light_of_eq_fifteen h15, exec, execPixFill0, withValue_ok]
    · refine ⟨_, decode_psel_remap he h0 h15 h20, ?_⟩
      rw [Spaces.light_of_table h0 h15, exec, execPixRemap, hv, withValue_ok]

/-- Inside a run the step of a pixel that survives clipping is the operation of its selector, and what follows it. -/
theorem step_of_psel {s : State} {i : Instr} (hp : s.phase = .run) (hv : s.pixVisible = true)
    (hi : decode (.psel (s.psel s.pixPos)) = .ok i) : step s = retire .run (exec i s) := by
  rw [step_of_fetch (fetch_pixel hp hv) hi, hp]

/-- Settles O42, by the operation that the selector names. -/
theorem pixelProcedureIsLightOrBlend : Obligations.PixelProcedureIsLightOrBlend := by
  intro s v hp hvis hin h20 hv
  have hvisible : s.pixVisible = true := Bool.and_eq_true_iff.2 ⟨hvis, hin⟩
  refine ⟨fun he => ?light, fun he hb => ?blend, fun he hb => ?keep⟩
  case light =>
    obtain ⟨i, hi, hexec⟩ := psel_stores_light he h20 hv
    rw [step_of_psel hp hvisible hi, hexec, retire_withValue]
    rfl
  case blend =>
    rw [step_of_psel hp hvisible (decode_psel_blend he hb), exec, execPixBlend0]
    simp only [retire_withValue, retire_run_next]
  case keep =>
    rw [step_of_psel hp hvisible (decode_psel_keep he hb)]
    rfl

/-! ### Host commands -/

/-- An idle step that takes a host access has run the command the access decodes to (R54, R67). -/
theorem exec_of_step_access {s t : State} {a : BusAccess} {q : List HostAction} (hp : s.phase = .idle)
    (hq : s.pending = .access a :: q) (h : step s = .next t) :
    ∃ i, decodeAccess a = .ok i ∧ exec i (s.setPending q) = .next t := by
  cases hi : decodeAccess a with
  | error r => cases (step_access_refused hp hq hi).symm.trans h
  | ok i => exact ⟨i, rfl, (step_eq_exec (by simp [hp]) (fetch_access hp hq) hi).symm.trans h⟩

/-- `START` leaves the working registers where a check refuses the draw (R123, R131). -/
theorem State.startDraw_w_or_rowTop (s : State) : s.startDraw.w = s.w ∨ s.startDraw.phase = .rowTop := by
  by_cases hcheck : s.cfg.startCheck = .none
  · exact .inr (by rw [State.startDraw_phase, if_pos hcheck])
  · refine .inl ?_
    rw [State.startDraw, if_neg hcheck, State.raiseCfg_w, State.clearForDraw_w]

/-- Settles O46, by what a host command can do. -/
theorem hostCommandTouchesNoSpace : Obligations.HostCommandTouchesNoSpace := by
  intro s t a q hp hq hstep
  obtain ⟨i, hi, hexec⟩ := exec_of_step_access hp hq hstep
  obtain rfl | rfl | ⟨v, rfl⟩ | ⟨r, v, rfl⟩ | ⟨v, rfl⟩ := exec_bus_next hi hexec
  · exact ⟨rfl, rfl, rfl, .inl rfl⟩
  · exact ⟨State.startDraw_mem _, State.startDraw_pix _, State.startDraw_pending _, State.startDraw_w_or_rowTop _⟩
  · exact ⟨State.statusClear_mem _ v, State.statusClear_pix _ v, State.statusClear_pending _ v,
      .inl (State.statusClear_w _ v)⟩
  · exact ⟨rfl, rfl, rfl, .inl rfl⟩
  · exact ⟨rfl, rfl, rfl, .inl rfl⟩

end Sys2Proof.Machine
end

section
/-! PROOFS. Stream decoder (spec/40_stream_decoder.md): the ends of a row and of a frame, the stream opcodes and their
faults, how every draw ends, and what a whole literal run stores. -/

namespace Sys2Proof.Machine

/-! ### The ends of a row and of a frame -/

/-- At the head of the loop with the extent consumed the step is frame end (R71). -/
theorem step_frameEnd {s : State} (hp : s.phase = .rowTop) (he : s.w.sp = s.w.send) : step s = .next s.endDraw := by
  simp only [step, fetch, hp, loopHead, if_pos he]

/-- Settles O22. -/
theorem frameEndsAtExtentEnd : Obligations.FrameEndsAtExtentEnd := fun _ hp he => step_frameEnd hp he

/-- Inside a row with no pixel left the step is row end (R70, R74). -/
theorem step_rowEnd {s : State} (hp : s.phase = .opcode) (hx : ¬ s.w.x < s.cfg.width) : step s = .next s.endRow := by
  simp only [step, fetch, hp, fetchOpcode, if_neg hx]

/-- Adding 1 modulo `2^AW`, in numbers. -/
theorem Addr.succ_eq (a : Addr) : a + 1 = BitVec.ofNat 32 (a.toNat + 1) := by
  rw [BitVec.ofNat_add, BitVec.ofNat_toNat, BitVec.setWidth_eq]
  rfl

/-- Taking `b` from `a` modulo `2^AW`, in numbers. -/
theorem Addr.sub_eq (a b : Addr) : a - b = BitVec.ofNat 32 (a.toNat + (2 ^ 32 - b.toNat)) := by
  rw [BitVec.sub_def, Nat.add_comm]

/-- Settles O24: the updates of row end are modulo `2^AW`. -/
theorem rowEndStepsBackward : Obligations.RowEndStepsBackward := by
  intro s hp hx
  refine ⟨_, step_rowEnd hp (by simp [hx]), rfl, ?_, ?_, rfl, rfl, rfl, rfl, rfl⟩
  · rw [← Addr.succ_eq]
    rfl
  · rw [← Addr.succ_eq, ← Addr.sub_eq]
    rfl

/-! ### The faults of the stream -/

/-- Inside an RLE row with no byte of the extent left the fetch takes `STREAM_TRUNC` (R73). -/
theorem step_fetchTrunc {s : State} (hp : s.phase = .opcode) (hx : s.w.x < s.cfg.width)
    (hf : s.cfg.opaqueFmt = false) (he : s.w.sp = s.w.send) :
    step s = .next (s.raiseStream .streamTrunc 0#8 s.w.x) := by
  simp [step, fetch, hp, fetchOpcode, hx, hf, fetchControl, he]

/-- A stream fault whose record holds control byte 0 (R132). -/
theorem State.raiseStream_faultEntry_zero (s : State) (c : Cause) (x : Pos) :
    FaultEntry s (s.raiseStream c 0#8 x) c (BitVec.ofNat 32 s.w.sp.toNat) s.w.r (BitVec.ofNat 32 x.toNat) := by
  simpa using s.raiseStream_faultEntry c 0#8 x

/-- Settles O25. -/
theorem fetchAtExtentEndFaults : Obligations.FetchAtExtentEndFaults := by
  intro s hp hf hx he
  refine ⟨_, step_fetchTrunc hp (BitVec.lt_def.2 hx) (ConfigRegs.opaqueFmt_eq_false.2 hf) he, ?_⟩
  rw [← he]
  exact s.raiseStream_faultEntry_zero _ _

/-- Settles O26. -/
theorem reservedByteFaults : Obligations.ReservedByteFaults := fun s =>
  ⟨_, rfl, s.raiseStream_faultEntry_zero _ _⟩

/-- A `LIT` longer than the row allows takes `STREAM_OVERRUN`, whatever is left of the extent (R78, R82). -/
theorem execLit_overrun {m : BitVec 7} {s : State} (hle : s.w.x.toNat ≤ s.cfg.width.toNat)
    (h : s.cfg.width.toNat < s.w.x.toNat + m.toNat) :
    execLit m s = .next (s.raiseStream .streamOverrun (controlByte false m) s.w.x) := by
  have hover : s.cfg.width - s.w.x < litLen m := (sub_lt_iff_toNat hle).2 (by rwa [litLen_toNat])
  exact if_pos hover

/-- A `LIT` that fits the row but not the extent takes `STREAM_TRUNC` (R78, R82). -/
theorem execLit_partial {m : BitVec 7} {s : State} (hx : s.w.x.toNat + m.toNat ≤ s.cfg.width.toNat)
    (hsp : s.w.sp.toNat < s.w.send.toNat) (h : s.w.send.toNat < s.w.sp.toNat + 1 + m.toNat) :
    execLit m s = .next (s.raiseStream .streamTrunc (controlByte false m) s.w.x) := by
  have hsucc := WorkRegs.sp_succ_toNat hsp
  have hfits : ¬ s.cfg.width - s.w.x < litLen m := by
    rw [sub_lt_iff_toNat (by omega), litLen_toNat]
    omega
  have htrunc : s.w.send - (s.w.sp + 1) < (litLen m).setWidth (Config.AW + 1) := by
    rw [sub_lt_iff_toNat (by omega), Pos.toNat_setWidth_sptr, litLen_toNat, hsucc]
    exact h
  exact (if_neg hfits).trans (if_pos htrunc)

/-- Settles O28, by the check that fails; the control byte of a `LIT` is its magnitude. -/
theorem literalRunFaults : Obligations.LiteralRunFaults := by
  intro s m _ hx hsp
  have hctl : (controlByte false m).toNat = m.toNat := by simp [controlByte_toNat]
  rw [← hctl]
  refine ⟨fun hover => ⟨_, execLit_overrun hx ?_, s.raiseStream_faultEntry _ _ _⟩,
    fun hfits hpart => ⟨_, execLit_partial ?_ hsp ?_, s.raiseStream_faultEntry _ _ _⟩⟩ <;> rwa [← hctl]

/-- A `SKIP` that fits the row is its run record, with `X` and `SP` past the run (R79). -/
theorem execSkip_fits {m : BitVec 7} {s : State}
    (h : s.w.x.toNat + (128 - m.toNat) ≤ s.cfg.width.toNat) : execSkip m s = .next (s.skipRun (skipLen m)) := by
  have hfits : ¬ s.cfg.width - s.w.x < skipLen m := by
    rw [sub_lt_iff_toNat (by omega), skipLen_toNat]
    omega
  exact if_neg hfits

/-- A `SKIP` that does not fit the row takes `STREAM_OVERRUN` (R79). -/
theorem execSkip_overrun {m : BitVec 7} {s : State} (hle : s.w.x.toNat ≤ s.cfg.width.toNat)
    (h : s.cfg.width.toNat < s.w.x.toNat + (128 - m.toNat)) :
    execSkip m s = .next (s.raiseStream .streamOverrun (controlByte true m) s.w.x) := by
  have hover : s.cfg.width - s.w.x < skipLen m := (sub_lt_iff_toNat hle).2 (by rwa [skipLen_toNat])
  exact if_pos hover

/-- `X <- X + n` of a skip run (R79), where the run fits the row. -/
theorem State.skipRun_x {s : State} {n : Pos} (h : s.w.x.toNat + n.toNat ≤ s.cfg.width.toNat) :
    (s.skipRun n).w.x.toNat = s.w.x.toNat + n.toNat :=
  BitVec.toNat_add_of_lt (h.trans_lt s.cfg.width.isLt)

/-- A skip run touches working registers alone (R79, R111). -/
theorem State.skipRun_onlyWorkChanges (s : State) (n : Pos) : OnlyWorkChanges s (s.skipRun n) :=
  ⟨rfl, rfl, rfl, rfl, rfl⟩

/-- Settles O29, by whether the run fits the row. -/
theorem skipRunAdvances : Obligations.SkipRunAdvances := by
  intro s m hx hsp
  refine ⟨fun hfits => ?fits, fun hover => ?overrun⟩
  case fits =>
    have hxn : (s.skipRun (skipLen m)).w.x.toNat = s.w.x.toNat + (128 - m.toNat) := by
      rw [State.skipRun_x (by rwa [skipLen_toNat]), skipLen_toNat]
    exact ⟨_, execSkip_fits hfits, rfl, rfl, rfl, skipLen_toNat m, hxn, SPtr.toNat_succ (by omega), rfl,
      s.skipRun_onlyWorkChanges _⟩
  case overrun =>
    have hctl : (controlByte true m).toNat = 128 + m.toNat := by simp [controlByte_toNat]
    rw [← hctl]
    exact ⟨_, execSkip_overrun hx hover, s.raiseStream_faultEntry _ _ _⟩

/-! ### Runs of the machine -/

theorem steps_one (s : State) : steps 1 s = step s := by
  unfold steps
  cases step s <;> rfl

/-- The first of several steps. -/
theorem steps_succ_of_step {s t : State} (h : step s = .next t) (k : Nat) : steps (k + 1) s = steps k t := by
  simp only [steps, h]

/-- The last of several steps. -/
theorem steps_succ_of_steps {k : Nat} {s t : State} (h : steps k s = .next t) : steps (k + 1) s = step t := by
  induction k generalizing s with
  | zero =>
    cases h
    exact steps_one _
  | succ k ih =>
    cases hs : step s with
    | next u =>
      rw [steps_succ_of_step hs] at h ⊢
      exact ih h
    | fault f => simp [steps, hs] at h
    | refused r => simp [steps, hs] at h

/-! ### A draw of an empty extent -/

/-- `START` under a configuration that passes the checks begins a draw (R123). -/
theorem State.startDraw_of_check {s : State} (h : s.cfg.startCheck = .none) :
    s.startDraw = s.clearForDraw.beginDraw :=
  if_pos h

/-- The extent of no bytes ends where it begins (R125). -/
theorem ConfigRegs.extentEnd_of_empty {c : ConfigRegs} (h : c.srcLen = 0) :
    c.extentEnd = c.srcAddr.setWidth (Config.AW + 1) := by
  simp [ConfigRegs.extentEnd, h]

/-- An idle step with a write to `START` at the head of the queue starts a draw (R67, R123). -/
theorem step_start {s : State} {v : Reg32} {q : List HostAction} (hp : s.phase = .idle)
    (hq : s.pending = .access (.write .word 0x24#8 v) :: q) : step s = .next (s.setPending q).startDraw :=
  step_eq_exec (i := .start v) (by simp [hp]) (fetch_access hp hq) (decode_of_encode_eq rfl rfl)

/-- Settles O18: the step after `START` is frame end. -/
theorem emptyFrameDrawsNothing : Obligations.EmptyFrameDrawsNothing := by
  intro s v q hp hq hcheck hlen
  have hstart : (s.setPending q).startDraw = (s.setPending q).clearForDraw.beginDraw :=
    State.startDraw_of_check hcheck
  have hend : step (s.setPending q).clearForDraw.beginDraw = .next (s.setPending q).clearForDraw.beginDraw.endDraw :=
    step_frameEnd rfl (ConfigRegs.extentEnd_of_empty hlen).symm
  refine ⟨(s.setPending q).clearForDraw.beginDraw.endDraw, ?_, ⟨rfl, rfl⟩, rfl, rfl, rfl, rfl, rfl, rfl⟩
  rw [steps_succ_of_step (step_start hp hq), hstart, steps_one, hend]

/-! ### The ends of a draw -/

/-- `t` is `s` after one of the four faults of the stream, taken at `SP` in row `R` (R130, R132). -/
def StreamFault (s t : State) : Prop :=
  ∃ c ∈ [Cause.streamReserved, .streamOverrun, .streamTrunc, .maskRows], ∃ ctl x, t = s.raiseStream c ctl x

theorem StreamFault.of_raiseStream {s : State} {c : Cause} (ctl : Byte) (x : Pos)
    (hc : c ∈ [Cause.streamReserved, .streamOverrun, .streamTrunc, .maskRows]) :
    StreamFault s (s.raiseStream c ctl x) :=
  ⟨c, hc, ctl, x, rfl⟩

/-- The opcode of a control byte leaves the phase of the draw, begins a run, or takes a fault of the stream (R78 to
R80). -/
theorem exec_control_phase {c : Byte} {s t : State} (h : exec (decodeC8 c) s = .next t) :
    t.phase = s.phase ∨ t.phase = .run ∨ StreamFault s t := by
  obtain hd | ⟨m, hd⟩ | ⟨m, -, hd⟩ := decodeC8_cases c <;> rw [hd] at h
  · cases h
    exact .inr (.inr (.of_raiseStream _ _ (by simp)))
  · obtain ⟨-, ht⟩ | ⟨-, ht⟩ := execSkip_cases m s <;> cases ht.symm.trans h
    · exact .inr (.inr (.of_raiseStream _ _ (by simp)))
    · exact .inl rfl
  · obtain ⟨-, ht⟩ | ⟨-, -, ht⟩ | ⟨-, -, ht⟩ := execLit_cases m s <;> cases ht.symm.trans h
    · exact .inr (.inr (.of_raiseStream _ _ (by simp)))
    · exact .inr (.inr (.of_raiseStream _ _ (by simp)))
    · exact .inr (.inl rfl)

/-- An opaque row begins a run or takes a fault of the stream (R81). -/
theorem exec_rawrow_phase {s t : State} (h : exec .rawrow s = .next t) : t.phase = .run ∨ StreamFault s t := by
  obtain ⟨-, ht⟩ | ⟨-, ht⟩ := execRawrow_cases s <;> cases ht.symm.trans h
  · exact .inr (.of_raiseStream _ _ (by simp))
  · exact .inl rfl

/-- Going on after a pixel does not end the draw (R77). -/
theorem State.nextPixel_phase_ne_idle {s : State} (hp : s.phase ≠ .idle) : s.nextPixel.phase ≠ .idle := by
  rw [State.nextPixel_phase]
  split
  · simp
  · exact hp

/-- A pixel operation leaves the phase of the draw (R112 to R116). -/
theorem exec_psel_phase {p : BitVec 4} {i : Instr} {s t : State} (hi : decodePsel p = .ok i)
    (h : exec i s = .next t) : t.phase = s.phase := by
  obtain rfl | ⟨v, rfl⟩ := exec_psel_next hi h <;> rfl

/-- A step of a draw goes on with the draw, or is frame end, or takes a fault of the stream. -/
theorem StepTo.draw_cases {s t : State} (h : StepTo s t) (hdraw : s.phase ≠ .idle) :
    t.phase ≠ .idle ∨ (s.phase = .rowTop ∧ s.w.sp = s.w.send ∧ t = s.endDraw) ∨ StreamFault s t := by
  cases h with
  | hostIdle hp | hostPoke _ _ _ _ hp | hostPokeMask _ _ _ hp | hostCommand _ _ _ hp => exact absurd hp hdraw
  | frameEnd hp he => exact .inr (.inl ⟨hp, he, rfl⟩)
  | maskRows | fetchTrunc => exact .inr (.inr (.of_raiseStream _ _ (by simp)))
  | rowMasked | rowUnmasked | rowEnd => exact .inl (by simp)
  | rawrow hp hx hf ht =>
    obtain hrun | hfault := exec_rawrow_phase ht
    · exact .inl (by simp [hrun])
    · exact .inr (.inr hfault)
  | control c hp hx hf he hc ht =>
    obtain hsame | hrun | hfault := exec_control_phase ht
    · exact .inl (by rwa [hsame])
    · exact .inl (by simp [hrun])
    · exact .inr (.inr hfault)
  | pixelClipped => exact .inl (State.nextPixel_phase_ne_idle hdraw)
  | pixelOp i hp hv hi ht => exact .inl (State.nextPixel_phase_ne_idle (by rwa [exec_psel_phase hi ht]))

/-- Settles O48, by what a step of a draw can do. -/
theorem drawEndsByFrameEndOrFault : Obligations.DrawEndsByFrameEndOrFault := by
  intro s t hdraw hstep hidle
  obtain hgoes | ⟨hp, he, rfl⟩ | ⟨c, hc, ctl, x, rfl⟩ := (step_cases hstep).draw_cases hdraw
  · exact absurd hidle hgoes
  · exact ⟨rfl, .inl ⟨hp, he, rfl⟩⟩
  · exact ⟨s.raiseStream_st_done c ctl x, .inr ⟨c, _, _, _, hc, s.raiseStream_faultEntry c ctl x⟩⟩

/-! ### No draw is refused -/

/-- An outcome that is a next state, or the read of a location that nothing has written (R43). -/
inductive Answers : Host.Outcome State Fault Refusal → Prop where
  | next (t : State) : Answers (.next t)
  | noValue (sp : ByteSpace) (a : Nat) : Answers (.fault (.noValue sp a))
  | noMaskWord (i : Nat) : Answers (.fault (.noMaskWord i))

theorem Answers.of_eq_next {o : Host.Outcome State Fault Refusal} {t : State} (h : o = .next t) : Answers o :=
  h ▸ .next t

/-- Going on with a byte of an address that exists answers if every continuation does. -/
theorem Answers.readByte {m : Spaces} {sp : ByteSpace} {a : Nat} {k : Byte → Host.Outcome State Fault Refusal}
    (ha : a < sp.size) (hk : ∀ v, Answers (k v)) : Answers (withValue (m.readByte sp a) k) := by
  cases hr : m.readByte sp a with
  | ok v => exact hk v
  | error f =>
    obtain ⟨-, -, rfl⟩ | ⟨hle, -⟩ := Spaces.readByte_eq_error.1 hr
    · exact .noValue sp a
    · omega

/-- Going on with a mask word that exists answers if every continuation does. -/
theorem Answers.readMask {m : Spaces} {i : Nat} {k : MaskWord → Host.Outcome State Fault Refusal}
    (hi : i < Config.MSK_WORDS) (hk : ∀ u, Answers (k u)) : Answers (withValue (m.readMask i) k) := by
  unfold Spaces.readMask
  rw [if_pos hi]
  cases m.msk.read i with
  | some u => exact hk u
  | none => exact .noMaskWord i

/-- What follows an instruction answers if the instruction does. -/
theorem Answers.retire {o : Host.Outcome State Fault Refusal} (h : Answers o) (p : Phase) :
    Answers (retire p o) := by
  cases h with
  | next t =>
    unfold Machine.retire
    dsimp only
    split <;> exact .next _
  | noValue sp a => exact .noValue sp a
  | noMaskWord i => exact .noMaskWord i

/-- `LIT` answers in every state (R78). -/
theorem Answers.exec_lit (m : BitVec 7) (s : State) : Answers (exec (.lit m) s) := by
  obtain ⟨-, h⟩ | ⟨-, -, h⟩ | ⟨-, -, h⟩ := execLit_cases m s <;> exact .of_eq_next h

/-- `SKIP` answers in every state (R79). -/
theorem Answers.exec_skip (m : BitVec 7) (s : State) : Answers (exec (.skip m) s) := by
  obtain ⟨-, h⟩ | ⟨-, h⟩ := execSkip_cases m s <;> exact .of_eq_next h

/-- `RAWROW` answers in every state (R81). -/
theorem Answers.exec_rawrow (s : State) : Answers (exec .rawrow s) := by
  obtain ⟨-, h⟩ | ⟨-, h⟩ := execRawrow_cases s <;> exact .of_eq_next h

/-- The opcode of a control byte answers in every state (R78 to R80). -/
theorem Answers.exec_control (c : Byte) (s : State) : Answers (exec (decodeC8 c) s) := by
  obtain hd | ⟨m, hd⟩ | ⟨m, -, hd⟩ := decodeC8_cases c <;> rw [hd]
  · exact .next _
  · exact .exec_skip m s
  · exact .exec_lit m s

/-- The entry of a table that a light select names is in LT (R47). -/
theorem ltAddr_lt_size {sel : BitVec 5} (h : sel.toNat < 20) (v : Byte) : ltAddr sel v < ByteSpace.lt.size := by
  have hv : v.toNat < 256 := v.isLt
  simp only [ltAddr, ByteSpace.size, Config.LT_BYTES, Config.NPAL, Config.NLEVEL, Config.NSPECIAL]
  omega

/-- Every pair of pixels has an entry in BL (R48). -/
theorem blAddr_lt_size (i j : Byte) : blAddr i j < ByteSpace.bl.size := by
  have hi : i.toNat < 256 := i.isLt
  have hj : j.toNat < 256 := j.isLt
  simp only [blAddr, ByteSpace.size, Config.BL_BYTES, Config.NPAL]
  omega

/-- A pixel has an operation, which answers, under a light select that `START` accepts (R66, R112 to R116). -/
theorem Answers.exec_psel {s : State} (x : Pos) (h20 : s.cfg.ltsel.toNat < 20) :
    ∃ i, decode (.psel (s.psel x)) = .ok i ∧ Answers (exec i s) := by
  have hspr : s.payloadAddr.toNat < ByteSpace.spr.size := (Addr.lt_size _).2
  have hfb : s.pixAddr.toNat < ByteSpace.fb.size := (Addr.lt_size _).1
  cases he : s.ebit x
  case false =>
    by_cases hb : s.cfg.mode = 2#2
    · exact ⟨_, decode_psel_blend he hb,
        .readByte hfb fun d => .readByte (blAddr_lt_size d 0#8) fun _ => .next _⟩
    · exact ⟨_, decode_psel_keep he hb, .next _⟩
  case true =>
    by_cases h0 : s.cfg.ltsel.toNat = 0
    · exact ⟨_, decode_psel_copy he h0, .readByte hspr fun _ => .next _⟩
    · by_cases h15 : s.cfg.ltsel.toNat = 15
      · exact ⟨_, decode_psel_fill he h15, .next _⟩
      · exact ⟨_, decode_psel_remap he h0 h15 h20,
          .readByte hspr fun v => .readByte (ltAddr_lt_size h20 v) fun _ => .next _⟩

/-- Row start answers while the row limit and the checks of `START` hold (R72, R97, R99). -/
theorem State.InDraw.rowStart_answers {s : State} (h : s.InDraw) : Answers (rowStart s) := by
  obtain ⟨-, -, -, -, hmask, -⟩ := ConfigRegs.startCheck_none h.checked
  unfold rowStart
  split
  · rename_i hm
    obtain ⟨-, hwords⟩ := hmask hm
    split
    · exact .next _
    · have hi : s.maskIndex < Config.MSK_WORDS := by
        simp only [State.maskIndex]
        omega
      exact .readMask hi fun _ => .next _
  · exact .next _

/-- A step inside a row answers (R73, R74, R78 to R81). -/
theorem Answers.step_opcode {s : State} (hp : s.phase = .opcode) : Answers (step s) := by
  have hne : s.phase ≠ .run := by simp [hp]
  by_cases hx : s.w.x < s.cfg.width
  · cases hf : s.cfg.opaqueFmt
    · by_cases he : s.w.sp = s.w.send
      · exact .of_eq_next (step_fetchTrunc hp hx hf he)
      · cases hc : s.mem.spr.read s.w.spAddr.toNat with
        | some c =>
          rw [step_eq_exec hne (fetch_controlByte hp hx hf he hc) rfl]
          exact .exec_control c s
        | none =>
          have hread : s.mem.readByte .spr s.w.spAddr.toNat = .error (.noValue .spr s.w.spAddr.toNat) :=
            Spaces.readByte_eq_error.2 (.inl ⟨(Addr.lt_size _).2, hc, rfl⟩)
          have hstep : step s = .fault (.noValue .spr s.w.spAddr.toNat) := by
            simp [step, fetch, hp, fetchOpcode, hx, hf, fetchControl, he, hread]
          rw [hstep]
          exact .noValue _ _
    · rw [step_eq_exec hne (fetch_rawrow hp hx hf) rfl]
      exact .exec_rawrow s
  · exact .of_eq_next (step_rowEnd hp hx)

/-- A clipped pixel is passed over (R107, R108). -/
theorem step_clipped {s : State} (hp : s.phase = .run) (hv : s.pixVisible = false) : step s = .next s.nextPixel := by
  simp [step, fetch, hp, fetchPixel, hv]

/-- A step inside a run answers under a light select that `START` accepts (R110). -/
theorem Answers.step_run {s : State} (hp : s.phase = .run) (h20 : s.cfg.ltsel.toNat < 20) : Answers (step s) := by
  cases hv : s.pixVisible
  · exact .of_eq_next (step_clipped hp hv)
  · obtain ⟨i, hi, hexec⟩ := Answers.exec_psel s.pixPos h20
    rw [step_of_psel hp hv hi]
    exact hexec.retire _

/-- A step of a draw is a next state, or the read of a location that nothing has written: none is refused (R43). -/
theorem State.InDraw.step_answers {s : State} (h : s.InDraw) (hdraw : s.phase ≠ .idle) : Answers (step s) := by
  obtain ⟨-, -, hltsel, -⟩ := ConfigRegs.startCheck_none h.checked
  cases hp : s.phase with
  | idle => exact absurd hp hdraw
  | rowTop =>
    by_cases he : s.w.sp = s.w.send
    · exact .of_eq_next (step_frameEnd hp he)
    · rw [step_eq_rowStart hp he]
      exact h.rowStart_answers
  | opcode => exact .step_opcode hp
  | run => exact .step_run hp (BitVec.lt_def.1 hltsel)

/-! ### How much of a draw is left -/

theorem State.drawMeasure_rowTop {s : State} (hp : s.phase = .rowTop) : s.drawMeasure = 4 * s.bytesLeft + 2 := by
  simp only [State.drawMeasure, hp]

theorem State.drawMeasure_inside {s : State} (hp : s.phase = .opcode) (hx : s.w.x < s.cfg.width) :
    s.drawMeasure = 4 * s.bytesLeft + 1 := by
  simp only [State.drawMeasure, hp, if_pos hx]

theorem State.drawMeasure_rowEnd {s : State} (hp : s.phase = .opcode) (hx : ¬ s.w.x < s.cfg.width) :
    s.drawMeasure = 4 * s.bytesLeft + 3 := by
  simp only [State.drawMeasure, hp, if_neg hx]

/-- Between opcodes the bound is that of the row's end or less. -/
theorem State.drawMeasure_opcode_le {s : State} (hp : s.phase = .opcode) : s.drawMeasure ≤ 4 * s.bytesLeft + 3 := by
  by_cases hx : s.w.x < s.cfg.width
  · rw [State.drawMeasure_inside hp hx]
    omega
  · rw [State.drawMeasure_rowEnd hp hx]

theorem State.drawMeasure_run {s : State} (hp : s.phase = .run) :
    s.drawMeasure = 4 * (s.bytesLeft - s.runBytes) + 3 + (s.w.runLen.toNat - s.pix.toNat) := by
  simp only [State.drawMeasure, hp]

/-- A run takes at most a byte of the extent for each of its pixels (R63). -/
theorem State.runLen_le_runBytes (s : State) : s.w.runLen.toNat ≤ s.runBytes := by
  unfold State.runBytes
  split <;> omega

/-- The encoded bytes of a run are left in the extent. -/
theorem State.InRun.runBytes_le {s : State} (h : s.InRun) : s.runBytes ≤ s.bytesLeft := by
  have hbytes := h.bytes
  simp only [State.bytesLeft]
  omega

/-- The bound in bytes alone, in every state of a draw. -/
theorem State.Inv.drawMeasure_le {s : State} (h : s.Inv) : s.drawMeasure ≤ 4 * s.bytesLeft + 3 := by
  cases hp : s.phase with
  | idle => simp [State.drawMeasure, hp]
  | rowTop =>
    rw [State.drawMeasure_rowTop hp]
    omega
  | opcode => exact State.drawMeasure_opcode_le hp
  | run =>
    have hlen := s.runLen_le_runBytes
    have hbytes := (h.run hp).runBytes_le
    rw [State.drawMeasure_run hp]
    omega

/-- Some step of a draw is left while it goes on. -/
theorem State.drawMeasure_pos {s : State} (hdraw : s.phase ≠ .idle) : 0 < s.drawMeasure := by
  cases hp : s.phase with
  | idle => exact absurd hp hdraw
  | rowTop =>
    rw [State.drawMeasure_rowTop hp]
    omega
  | opcode =>
    unfold State.drawMeasure
    simp only [hp]
    split <;> omega
  | run =>
    rw [State.drawMeasure_run hp]
    omega

/-- Row start leaves less of the draw: the row has a pixel (R72, R124). -/
theorem State.drawMeasure_beginRow_lt {s : State} (hp : s.phase = .rowTop) (hwidth : s.cfg.width ≠ 0) (u : MaskWord) :
    (s.beginRow u).drawMeasure < s.drawMeasure := by
  have hx : (s.beginRow u).w.x < (s.beginRow u).cfg.width := (BitVec.pos_iff_ne_zero _).2 hwidth
  rw [State.drawMeasure_inside rfl hx, State.drawMeasure_rowTop hp]
  exact Nat.lt_succ_self _

/-- Row end leaves less of the draw (R74). -/
theorem State.drawMeasure_endRow_lt {s : State} (hp : s.phase = .opcode) (hx : ¬ s.w.x < s.cfg.width) :
    s.endRow.drawMeasure < s.drawMeasure := by
  rw [State.drawMeasure_rowTop rfl, State.drawMeasure_rowEnd hp hx]
  exact Nat.lt_succ_self _

/-- A skip run leaves less of the draw: it takes a byte of the extent (R79). -/
theorem State.drawMeasure_skipRun_lt {s : State} (hp : s.phase = .opcode) (hx : s.w.x < s.cfg.width)
    (hsp : s.w.sp.toNat < s.w.send.toNat) (n : Pos) : (s.skipRun n).drawMeasure < s.drawMeasure := by
  have hle : (s.skipRun n).drawMeasure ≤ _ := State.drawMeasure_opcode_le hp
  rw [State.drawMeasure_inside hp hx]
  simp only [State.bytesLeft, State.skipRun_w_sp, State.skipRun_w_send, WorkRegs.sp_succ_toNat hsp] at hle ⊢
  omega

/-- The beginning of a run leaves less of the draw: each of its pixels is one step, and at least a byte (R77). -/
theorem State.drawMeasure_beginRun_lt {s : State} {n : Pos} {src : Addr} (hp : s.phase = .opcode)
    (hx : s.w.x < s.cfg.width) (h : (s.beginRun n src).InRun) : (s.beginRun n src).drawMeasure < s.drawMeasure := by
  have hlen := (s.beginRun n src).runLen_le_runBytes
  have hpix := h.pix_lt
  have hbytes := h.runBytes_le
  have hleft : (s.beginRun n src).bytesLeft = s.bytesLeft := rfl
  rw [State.drawMeasure_run rfl, State.drawMeasure_inside hp hx]
  omega

/-- Going on after a pixel leaves less of the draw: a pixel, or, after the last, the bytes of the run (R77). -/
theorem State.drawMeasure_nextPixel_lt {s : State} (h : s.InRun) (hp : s.phase = .run) :
    s.nextPixel.drawMeasure < s.drawMeasure := by
  have hpix := h.pix_lt
  rw [State.drawMeasure_run hp]
  obtain hlast | hmore : s.pix.toNat + 1 = s.w.runLen.toNat ∨ s.pix.toNat + 1 < s.w.runLen.toNat := by omega
  · have hle := State.drawMeasure_opcode_le s.endRun_phase
    rw [State.nextPixel_of_last hlast]
    simp only [State.bytesLeft, State.endRun_w_send, h.endRun_sp] at hle ⊢
    omega
  · have hsucc : (s.pix + 1).toNat = s.pix.toNat + 1 :=
      BitVec.toNat_add_of_lt (hmore.trans s.w.runLen.isLt)
    have hmeasure : s.nextPixel.drawMeasure =
        4 * (s.bytesLeft - s.runBytes) + 3 + (s.w.runLen.toNat - (s.pix + 1).toNat) := by
      rw [State.nextPixel_of_more hmore]
      exact State.drawMeasure_run hp
    omega

/-- A step that ends the draw leaves none of it. -/
theorem State.drawMeasure_lt_of_idle {s t : State} (hdraw : s.phase ≠ .idle) (ht : t.phase = .idle) :
    t.drawMeasure < s.drawMeasure := by
  have hzero : t.drawMeasure = 0 := by simp only [State.drawMeasure, ht]
  rw [hzero]
  exact State.drawMeasure_pos hdraw

/-- Every step of a draw leaves less of it (R76). -/
theorem StepTo.drawMeasure_lt {s t : State} (h : StepTo s t) (hs : s.Inv) (ht : t.Inv) (hdraw : s.phase ≠ .idle) :
    t.drawMeasure < s.drawMeasure := by
  have hd := hs.draw hdraw
  obtain ⟨-, -, -, hwidth, -⟩ := ConfigRegs.startCheck_none hd.checked
  cases h with
  | hostIdle hp | hostPoke _ _ _ _ hp | hostPokeMask _ _ _ hp | hostCommand _ _ _ hp => exact absurd hp hdraw
  | frameEnd => exact State.drawMeasure_lt_of_idle hdraw rfl
  | maskRows | fetchTrunc => exact State.drawMeasure_lt_of_idle hdraw (by simp)
  | rowMasked u hp => exact State.drawMeasure_beginRow_lt hp hwidth u
  | rowUnmasked hp => exact State.drawMeasure_beginRow_lt hp hwidth _
  | rowEnd hp hx => exact State.drawMeasure_endRow_lt hp hx
  | rawrow hp hx hf hexec =>
    obtain ⟨k, b, x, -, rfl⟩ | ⟨-, rfl⟩ := exec_rawrow_next hexec
    · exact State.drawMeasure_lt_of_idle hdraw (by simp)
    · exact State.drawMeasure_beginRun_lt hp hx (ht.run rfl)
  | control c hp hx hf he hc hexec =>
    obtain ⟨k, b, x, -, rfl⟩ | ⟨n, -, rfl⟩ | ⟨n, -, -, -, rfl⟩ := exec_control_next hexec
    · exact State.drawMeasure_lt_of_idle hdraw (by simp)
    · exact State.drawMeasure_skipRun_lt hp hx (hd.sp_lt he) n
    · exact State.drawMeasure_beginRun_lt hp hx (ht.run rfl)
  | pixelClipped hp => exact State.drawMeasure_nextPixel_lt (hs.run hp) hp
  | pixelOp i hp hv hi hexec =>
    obtain rfl | ⟨v, rfl⟩ := exec_psel_next hi hexec
    · exact State.drawMeasure_nextPixel_lt (hs.run hp) hp
    · exact State.drawMeasure_nextPixel_lt (hs.writeFb.run hp) hp

/-! ### Every draw ends -/

/-- A run of the machine in which the draw is over, or which stopped at a location that nothing has written (R43). -/
def DrawStops (o : Host.Outcome State Fault Refusal) : Prop :=
  (∃ t, o = .next t ∧ t.DrawOver) ∨ (∃ sp a, o = .fault (.noValue sp a)) ∨ ∃ i, o = .fault (.noMaskWord i)

/-- From every state of a draw it stops within the steps that its measure bounds. -/
theorem State.Inv.draw_stops {s : State} (h : s.Inv) (hdraw : s.phase ≠ .idle) :
    ∃ k, k ≤ s.drawMeasure ∧ DrawStops (steps k s) := by
  induction hn : s.drawMeasure using Nat.strong_induction_on generalizing s with
  | h n ih =>
    have hpos := State.drawMeasure_pos hdraw
    have hanswers := (h.draw hdraw).step_answers hdraw
    have hone : DrawStops (step s) → ∃ k, k ≤ n ∧ DrawStops (steps k s) := fun hstop =>
      ⟨1, by omega, by rwa [steps_one]⟩
    cases hstep : step s with
    | next t =>
      have ht := stepKeepsInvariant s t h hstep
      by_cases hidle : t.phase = .idle
      · obtain ⟨hdone, -⟩ := drawEndsByFrameEndOrFault s t hdraw hstep hidle
        exact hone (.inl ⟨t, hstep, hidle, hdone⟩)
      · have hlt := (step_cases hstep).drawMeasure_lt h ht hdraw
        obtain ⟨k, hk, hstop⟩ := ih _ (hn ▸ hlt) ht hidle rfl
        exact ⟨k + 1, by omega, by rwa [steps_succ_of_step hstep]⟩
    | fault f =>
      rw [hstep] at hanswers
      cases hanswers with
      | noValue sp a => exact hone (.inr (.inl ⟨sp, a, hstep⟩))
      | noMaskWord i => exact hone (.inr (.inr ⟨i, hstep⟩))
    | refused r =>
      rw [hstep] at hanswers
      nomatch hanswers

/-- Settles O53: the measure of a draw is within the bytes left of it. -/
theorem everyDrawEnds : Obligations.EveryDrawEnds := by
  intro s h hdraw
  obtain ⟨k, hk, hstop⟩ := h.draw_stops hdraw
  exact ⟨k, hk.trans h.drawMeasure_le, hstop⟩

/-! ### The pixels of a run that copies its payload -/

/-- The same machine at pixel `i` of the run. -/
def State.atPixel (s : State) (i : Nat) : State := { s with pix := BitVec.ofNat Config.WIDTH_BITS i }

@[simp] theorem State.atPixel_cfg (s : State) (i : Nat) : (s.atPixel i).cfg = s.cfg := rfl
@[simp] theorem State.atPixel_st (s : State) (i : Nat) : (s.atPixel i).st = s.st := rfl
@[simp] theorem State.atPixel_w (s : State) (i : Nat) : (s.atPixel i).w = s.w := rfl
@[simp] theorem State.atPixel_mem (s : State) (i : Nat) : (s.atPixel i).mem = s.mem := rfl
@[simp] theorem State.atPixel_pending (s : State) (i : Nat) : (s.atPixel i).pending = s.pending := rfl
@[simp] theorem State.atPixel_rdData (s : State) (i : Nat) : (s.atPixel i).rdData = s.rdData := rfl

/-- The position in a run is below its length, which fits a position. -/
theorem State.atPixel_pix {s : State} {i : Nat} (h : i < s.w.runLen.toNat) : (s.atPixel i).pix.toNat = i := by
  rw [State.atPixel, BitVec.toNat_ofNat]
  exact Nat.mod_eq_of_lt (h.trans s.w.runLen.isLt)

/-- The surface after the first `k` pixels of a run that copies the bytes `p`: the pixels that survive clipping are
stored, in ascending order (R77, R110, R112). -/
def State.copiedSurface (s : State) (p : Nat → Byte) : Nat → Memory
  | 0 => s.mem.fb
  | k + 1 =>
    if (s.atPixel k).pixVisible then (s.copiedSurface p k).write (s.atPixel k).pixAddr.toNat (p k)
    else s.copiedSurface p k

/-- The machine at pixel `i` of the run, the pixels before it having been copied. -/
def State.afterPixels (s : State) (p : Nat → Byte) (k i : Nat) : State :=
  (s.atPixel i).withSpace .fb (s.copiedSurface p k)

theorem State.afterPixels_pix {s : State} {p : Nat → Byte} {k i : Nat} (h : i < s.w.runLen.toNat) :
    (s.afterPixels p k i).pix.toNat = i :=
  State.atPixel_pix h

/-- A run of `n` pixels from row position `X` of `s` has copied the bytes `p`: in `t` the pixels of a visible row at
valid addresses hold them, every other byte of the surface is as in `s`, and so is everything else, the working
registers and the position in the draw apart. -/
structure CopiedRun (s t : State) (n : Nat) (p : Nat → Byte) : Prop where
  cfg : t.cfg = s.cfg
  st : t.st = s.st
  pending : t.pending = s.pending
  rdData : t.rdData = s.rdData
  spaces : t.mem = { s.mem with fb := t.mem.fb }
  drawn : ∀ i, i < n → ∀ a : Addr, a.toNat = (s.w.drow.toNat + s.w.x.toNat + i) % 2 ^ 32 → s.w.vis = true →
    s.cfg.fbLo.toNat ≤ a.toNat → a.toNat < s.cfg.fbHi.toNat → t.mem.fb.read a.toNat = some (p i)
  others : ∀ a : Nat, (s.w.vis = false ∨ a < s.cfg.fbLo.toNat ∨ s.cfg.fbHi.toNat ≤ a ∨
      ∀ i, i < n → a ≠ (s.w.drow.toNat + s.w.x.toNat + i) % 2 ^ 32) →
    t.mem.fb.read a = s.mem.fb.read a

/-- A literal run at its first pixel, under whose light select and effective bits each pixel copies its payload byte
`p i` (R87, R102, R112). -/
structure State.CopiesPayload (s : State) (p : Nat → Byte) : Prop where
  phase : s.phase = .run
  first : s.pix = 0
  level : s.cfg.ltsel = 0#5
  pos : ∀ i, i < s.w.runLen.toNat → (s.atPixel i).pixPos.toNat = s.w.x.toNat + i
  bits : ∀ i, i < s.w.runLen.toNat → s.ebit (s.atPixel i).pixPos = true
  bytes : ∀ i, i < s.w.runLen.toNat → s.mem.spr.read (s.atPixel i).payloadAddr.toNat = some (p i)

section CopiesPayload

variable {s : State} {p : Nat → Byte}

/-- The step of a pixel copies its byte if it survives clipping, and goes on. -/
theorem State.CopiesPayload.step_pixel (h : s.CopiesPayload p) {k : Nat} (hk : k < s.w.runLen.toNat) :
    step (s.afterPixels p k k) = .next (s.afterPixels p (k + 1) k).nextPixel := by
  have hlevel : s.cfg.ltsel.toNat = 0 := by rw [h.level]; rfl
  cases hv : (s.atPixel k).pixVisible
  case false =>
    rw [step_clipped (s := s.afterPixels p k k) h.phase hv]
    simp only [State.afterPixels, State.copiedSurface, hv, Bool.false_eq_true, if_false]
  case true =>
    obtain ⟨hvis, hin⟩ := Bool.and_eq_true_iff.1 hv
    have hpayload : (s.afterPixels p k k).payload = .ok (p k) := Spaces.readByte_spr.2 (h.bytes k hk)
    obtain ⟨hlight, -⟩ := pixelProcedureIsLightOrBlend (s.afterPixels p k k) (p k) h.phase hvis hin
      (hlevel.trans_lt (by decide)) hpayload
    have hcopied : (s.afterPixels p k k).writeFb (s.afterPixels p k k).pixAddr (p k) = s.afterPixels p (k + 1) k := by
      simp only [State.afterPixels, State.copiedSurface, hv, if_true]
      rfl
    rw [hlight (h.bits k hk), Spaces.light_of_eq_zero (sel := (s.afterPixels p k k).cfg.ltsel) hlevel, withValue_ok,
      hcopied]

/-- The next pixel of a run that has one. -/
theorem State.afterPixels_nextPixel {k i : Nat} (hi : i + 1 < s.w.runLen.toNat) :
    (s.afterPixels p k i).nextPixel = s.afterPixels p k (i + 1) := by
  have hmore : (s.afterPixels p k i).pix.toNat + 1 < (s.afterPixels p k i).w.runLen.toNat := by
    rwa [State.afterPixels_pix (Nat.lt_of_succ_lt hi)]
  have hsucc : (s.atPixel i).pix + 1 = (s.atPixel (i + 1)).pix := (BitVec.ofNat_add _ _).symm
  rw [State.nextPixel_of_more hmore]
  exact congrArg (fun x => { s.afterPixels p k i with pix := x }) hsucc

/-- Before its last pixel the run has copied a pixel in each step. -/
theorem State.CopiesPayload.steps_pixels (h : s.CopiesPayload p) {k : Nat} (hk : k < s.w.runLen.toNat) :
    steps k s = .next (s.afterPixels p k k) := by
  induction k with
  | zero =>
    have hfirst : s.afterPixels p 0 0 = s := by
      change { s with pix := 0 } = s
      rw [← h.first]
    rw [hfirst]
    rfl
  | succ k ih => rw [steps_succ_of_steps (ih (by omega)), h.step_pixel (by omega), State.afterPixels_nextPixel hk]

/-- A run that copies its payload ends, after a step for each of its pixels, with all of them copied. -/
theorem State.CopiesPayload.steps_run (h : s.CopiesPayload p) (hpos : 0 < s.w.runLen.toNat) :
    steps s.w.runLen.toNat s =
      .next (s.afterPixels p s.w.runLen.toNat (s.w.runLen.toNat - 1)).endRun := by
  obtain ⟨k, hk⟩ : ∃ k, s.w.runLen.toNat = k + 1 := ⟨_, (Nat.succ_pred_eq_of_pos hpos).symm⟩
  have hlast : (s.afterPixels p (k + 1) k).pix.toNat + 1 = (s.afterPixels p (k + 1) k).w.runLen.toNat := by
    rw [State.afterPixels_pix (by omega)]
    exact hk.symm
  rw [hk, steps_succ_of_steps (h.steps_pixels (by omega)), h.step_pixel (by omega), State.nextPixel_of_last hlast]
  rfl

/-! ### The surface after such a run -/

/-- The address of a pixel of the run (R46). -/
theorem State.CopiesPayload.pixAddr_toNat (h : s.CopiesPayload p) {i : Nat} (hi : i < s.w.runLen.toNat) :
    (s.atPixel i).pixAddr.toNat = (s.w.drow.toNat + s.w.x.toNat + i) % 2 ^ 32 := by
  rw [State.pixAddr, State.fbAddr_toNat, h.pos i hi, Nat.add_assoc]
  rfl

/-- A location that is the address of no copied pixel keeps its content. -/
theorem State.copiedSurface_other {a k : Nat}
    (h : ∀ i, i < k → (s.atPixel i).pixVisible = true → a ≠ (s.atPixel i).pixAddr.toNat) :
    (s.copiedSurface p k).read a = s.mem.fb.read a := by
  induction k with
  | zero => rfl
  | succ k ih =>
    have hrest := ih fun i hi => h i (by omega)
    rw [State.copiedSurface]
    split
    · rename_i hv
      rw [Cells.read_write_other _ _ (h k (by omega) hv), hrest]
    · exact hrest

/-- The address of a pixel that survives clipping holds its byte: no later pixel of the run has the same address. -/
theorem State.CopiesPayload.copiedSurface_pixel (h : s.CopiesPayload p) {i k : Nat} (hk : k ≤ s.w.runLen.toNat)
    (hi : i < k) (hv : (s.atPixel i).pixVisible = true) :
    (s.copiedSurface p k).read (s.atPixel i).pixAddr.toNat = some (p i) := by
  induction k with
  | zero => omega
  | succ k ih =>
    rw [State.copiedSurface]
    by_cases hik : i = k
    · subst hik
      rw [if_pos hv, Cells.read_write_same]
    · have hrest := ih (by omega) (by omega)
      have hne : (s.atPixel i).pixAddr.toNat ≠ (s.atPixel k).pixAddr.toNat := by
        have hlen : s.w.runLen.toNat < 2 ^ 16 := s.w.runLen.isLt
        rw [h.pixAddr_toNat (by omega), h.pixAddr_toNat (by omega)]
        omega
      split
      · rw [Cells.read_write_other _ _ hne, hrest]
      · exact hrest

/-- The pixels of a visible row at valid addresses hold their bytes. -/
theorem State.CopiesPayload.surface_drawn (h : s.CopiesPayload p) {i : Nat} (hi : i < s.w.runLen.toNat) {a : Addr}
    (ha : a.toNat = (s.w.drow.toNat + s.w.x.toNat + i) % 2 ^ 32) (hvis : s.w.vis = true)
    (hlo : s.cfg.fbLo.toNat ≤ a.toNat) (hhi : a.toNat < s.cfg.fbHi.toNat) :
    (s.copiedSurface p s.w.runLen.toNat).read a.toNat = some (p i) := by
  rw [← h.pixAddr_toNat hi] at ha
  rw [ha] at hlo hhi ⊢
  exact h.copiedSurface_pixel le_rfl hi (State.pixVisible_iff.2 ⟨hvis, hlo, hhi⟩)

/-- Everywhere else the surface is as before (R117). -/
theorem State.CopiesPayload.surface_other (h : s.CopiesPayload p) {a : Nat}
    (ha : s.w.vis = false ∨ a < s.cfg.fbLo.toNat ∨ s.cfg.fbHi.toNat ≤ a ∨
      ∀ i, i < s.w.runLen.toNat → a ≠ (s.w.drow.toNat + s.w.x.toNat + i) % 2 ^ 32) :
    (s.copiedSurface p s.w.runLen.toNat).read a = s.mem.fb.read a := by
  refine State.copiedSurface_other fun i hi hv hai => ?_
  obtain ⟨hvis, hlo, hhi⟩ := State.pixVisible_iff.1 hv
  simp only [State.atPixel_w, State.atPixel_cfg] at hvis hlo hhi
  obtain hclear | hbelow | habove | hnone := ha
  · exact absurd (hclear.symm.trans hvis) Bool.false_ne_true
  · omega
  · omega
  · exact hnone i hi (by rw [← h.pixAddr_toNat hi]; exact hai)

/-- The end of a run looks at no space and not at the position in the run. -/
theorem State.afterPixels_endRun_w (s : State) (p : Nat → Byte) (k i : Nat) :
    (s.afterPixels p k i).endRun.w = s.endRun.w := by
  cases hf : s.cfg.opaqueFmt <;> simp [State.endRun, State.afterPixels, hf]

/-- The whole of a run that copies its payload. -/
theorem State.CopiesPayload.run_copies (h : s.CopiesPayload p) (hpos : 0 < s.w.runLen.toNat) :
    ∃ t, steps s.w.runLen.toNat s = .next t ∧ t.phase = .opcode ∧ t.w = s.endRun.w ∧
      CopiedRun s t s.w.runLen.toNat p := by
  have hmem := State.endRun_mem (s.afterPixels p s.w.runLen.toNat (s.w.runLen.toNat - 1))
  refine ⟨_, h.steps_run hpos, State.endRun_phase _, s.afterPixels_endRun_w p _ _, State.endRun_cfg _,
    State.endRun_st _, State.endRun_pending _, State.endRun_rdData _, ?spaces, ?drawn, ?others⟩ <;> rw [hmem]
  case spaces => rfl
  case drawn => exact fun i hi a ha => h.surface_drawn hi ha
  case others => exact fun a ha => h.surface_other ha

end CopiesPayload

/-! ### Effective bits that are all 1 -/

/-- A mask bit that is 1, or no mask, makes the effective bit 1 where the mode is not stippled (R100, R102). -/
theorem State.ebit_of_mask {s : State} {x : Pos} (hmode : s.cfg.mode ≠ 1#2)
    (h : s.cfg.maskEn = false ∨ x.toNat < 64 ∧ s.w.mw.getLsbD (63 - x.toNat) = true) : s.ebit x = true := by
  have hstip : s.cfg.stippled = false := beq_eq_false_iff_ne.2 hmode
  have hbit : s.mbit x = true := by
    obtain hm | ⟨hx, hset⟩ := h
    · simp [State.mbit, hm]
    · simp [State.mbit, BitVec.getMsbD, hx, hset]
  simp [State.ebit, hbit, hstip]

/-- A run of `n` pixels from row position `X` whose mask bits are all 1 (or no mask) has every effective bit 1. -/
theorem State.ebit_of_opaqueMask {s : State} {n : Nat} (hmode : s.cfg.mode ≠ 1#2)
    (hn : s.w.x.toNat + n ≤ s.cfg.width.toNat)
    (hmask : s.cfg.maskEn = false ∨
      s.cfg.width.toNat ≤ 64 ∧ ∀ i, i < n → s.w.mw.getLsbD (63 - (s.w.x.toNat + i)) = true)
    {i : Nat} (hi : i < n) {x : Pos} (hx : x.toNat = s.w.x.toNat + i) : s.ebit x = true := by
  refine State.ebit_of_mask hmode (hmask.imp_right fun ⟨hwidth, hset⟩ => ?_)
  rw [hx]
  exact ⟨by omega, hset i hi⟩

/-- The address of a payload byte, where the run's bytes do not wrap (R45, R77). -/
theorem State.payloadAddr_atPixel {s : State} {i : Nat} (hi : i < s.w.runLen.toNat)
    (h : s.w.runSrc.toNat + i < 2 ^ 32) : (s.atPixel i).payloadAddr.toNat = s.w.runSrc.toNat + i := by
  rw [State.payloadAddr, BitVec.toNat_add, BitVec.toNat_setWidth_of_le (by decide), State.atPixel_pix hi]
  exact Nat.mod_eq_of_lt h

/-! ### A whole run -/

/-- The row position of a pixel is `X` plus its position in the run, in a `LIT`, and in a `RAWROW`, which begins at
`X = 0` (R78, R81). -/
theorem State.pixPos_toNat {s : State} (hraw : s.cfg.opaqueFmt = true → s.w.x = 0)
    (hx : s.w.x.toNat + s.pix.toNat < 65536) : s.pixPos.toNat = s.w.x.toNat + s.pix.toNat := by
  cases hf : s.cfg.opaqueFmt
  · exact State.pixPos_toNat_of_rle hf hx
  · rw [State.pixPos_of_opaque hf, hraw hf]
    exact (Nat.zero_add _).symm

/-- A run that fits its row, at level 0 under an opaque mask and not stippled, copies its payload. -/
theorem State.CopiesPayload.beginRun {s : State} {n : Pos} {src : Addr} {p : Nat → Byte}
    (hraw : s.cfg.opaqueFmt = true → s.w.x = 0) (hx : s.w.x.toNat + n.toNat ≤ s.cfg.width.toNat)
    (hsrc : src.toNat + n.toNat ≤ 2 ^ 32)
    (hbytes : ∀ i, i < n.toNat → s.mem.spr.read (src.toNat + i) = some (p i))
    (hlevel : s.cfg.ltsel = 0#5) (hmode : s.cfg.mode ≠ 1#2)
    (hmask : s.cfg.maskEn = false ∨
      s.cfg.width.toNat ≤ 64 ∧ ∀ i, i < n.toNat → s.w.mw.getLsbD (63 - (s.w.x.toNat + i)) = true) :
    (s.beginRun n src).CopiesPayload p := by
  have hwidth : s.cfg.width.toNat < 65536 := s.cfg.width.isLt
  have hpos (i : Nat) (hi : i < n.toNat) : ((s.beginRun n src).atPixel i).pixPos.toNat = s.w.x.toNat + i := by
    have hpix : ((s.beginRun n src).atPixel i).pix.toNat = i := State.atPixel_pix hi
    have hlt : s.w.x.toNat + ((s.beginRun n src).atPixel i).pix.toNat < 65536 := by omega
    exact (State.pixPos_toNat (s := (s.beginRun n src).atPixel i) hraw hlt).trans (congrArg (s.w.x.toNat + ·) hpix)
  refine ⟨rfl, rfl, hlevel, hpos, fun i hi => ?bits, fun i hi => ?bytes⟩
  case bits => exact State.ebit_of_opaqueMask hmode hx hmask hi (hpos i hi)
  case bytes =>
    have hlt : src.toNat + i < 2 ^ 32 := (Nat.add_lt_add_left hi _).trans_le hsrc
    have haddr : ((s.beginRun n src).atPixel i).payloadAddr.toNat = src.toNat + i :=
      State.payloadAddr_atPixel hi hlt
    rw [haddr]
    exact hbytes i hi

/-- An opcode that begins a run that copies its payload, together with the run. -/
theorem State.CopiesPayload.steps_opcode {s : State} {n : Pos} {src : Addr} {p : Nat → Byte}
    (h : (s.beginRun n src).CopiesPayload p) (hn : 0 < n.toNat) (hstep : step s = .next (s.beginRun n src)) :
    ∃ t, steps (1 + n.toNat) s = .next t ∧ t.phase = .opcode ∧ t.w = (s.beginRun n src).endRun.w ∧
      CopiedRun s t n.toNat p := by
  obtain ⟨t, hsteps, hphase, hw, hcopied⟩ := h.run_copies hn
  refine ⟨t, ?_, hphase, hw, hcopied.cfg, hcopied.st, hcopied.pending, hcopied.rdData, hcopied.spaces, hcopied.drawn,
    hcopied.others⟩
  rw [Nat.add_comm, steps_succ_of_step hstep]
  exact hsteps

/-- Of the working registers a whole run changes its record, `X` and `SP` alone (R77, R78, R81). -/
theorem State.beginRun_endRun_w {s : State} {n : Pos} {src : Addr} {w : WorkRegs}
    (h : w = (s.beginRun n src).endRun.w) :
    w = { s.w with x := w.x, sp := w.sp, runKind := w.runKind, runLen := w.runLen, runSrc := w.runSrc } := by
  rw [h, State.endRun_w_runKind, State.endRun_w_runLen, State.endRun_w_runSrc]
  exact State.endRun_w _

/-! ### A whole literal -/

/-- The control byte of a `LIT` is its length (R60). -/
theorem controlByte_false_eq (m : BitVec 7) : controlByte false m = BitVec.ofNat 8 m.toNat := by
  apply BitVec.eq_of_toNat_eq
  have hm : m.toNat < 2 ^ 8 := m.isLt.trans (by decide)
  have hctl : (controlByte false m).toNat = m.toNat := by simp [controlByte_toNat]
  rw [hctl, BitVec.toNat_ofNat]
  exact (Nat.mod_eq_of_lt hm).symm

/-- Inside an RLE row the step at the control byte of a `LIT` runs it (R64, R73). -/
theorem step_lit {s : State} {m : BitVec 7} (hp : s.phase = .opcode) (hx : s.w.x < s.cfg.width)
    (hf : s.cfg.opaqueFmt = false) (he : s.w.sp ≠ s.w.send) (hm : m ≠ 0#7)
    (hc : s.mem.spr.read s.w.spAddr.toNat = some (controlByte false m)) : step s = execLit m s := by
  have hdecode : decode (.c8 (controlByte false m)) = .ok (.lit m) := by
    simp only [decode, decodeC8_controlByte, hm, if_false, Bool.false_eq_true]
  exact step_eq_exec (by simp [hp]) (fetch_controlByte hp hx hf he hc) hdecode

/-- Settles O54: the `LIT` begins a run that copies its payload, and the end of the run moves `X` and `SP`. -/
theorem literalRunCopiesItsPayload : Obligations.LiteralRunCopiesItsPayload := by
  intro s m p hp hfmt hm hc hx hsp hsend hbytes hlevel hmode hmask
  have hf : s.cfg.opaqueFmt = false := ConfigRegs.opaqueFmt_eq_false.2 (by simp [hfmt])
  have hpos : 0 < m.toNat := Nat.pos_of_ne_zero (BitVec.toNat_ne.1 hm)
  have hlt : s.w.sp.toNat < s.w.send.toNat := by omega
  have hend : s.w.send.toNat < 2 ^ 33 := s.w.send.isLt
  have hsrc : ((s.w.sp + 1).setWidth Config.AW).toNat = s.w.sp.toNat + 1 := by
    rw [BitVec.toNat_setWidth, WorkRegs.sp_succ_toNat hlt]
    exact Nat.mod_eq_of_lt (by simp only [Config.AW]; omega)
  have hstep : step s = .next (s.beginRun (litLen m) ((s.w.sp + 1).setWidth Config.AW)) := by
    have hne : s.w.sp ≠ s.w.send := fun e => hlt.ne (congrArg BitVec.toNat e)
    have hctl : s.mem.spr.read s.w.spAddr.toNat = some (controlByte false m) := by
      rwa [WorkRegs.spAddr_toNat, Nat.mod_eq_of_lt (by omega), controlByte_false_eq]
    rw [step_lit hp (BitVec.lt_def.2 (by omega)) hf hne hm hctl, execLit_fits hx hsp]
  have hlen := litLen_toNat m
  rw [← hlen] at hpos hx hsp hbytes hmask ⊢
  have hcopies : (s.beginRun (litLen m) ((s.w.sp + 1).setWidth Config.AW)).CopiesPayload p :=
    .beginRun (fun hop => absurd (hf.symm.trans hop) Bool.false_ne_true) hx (by omega) (by rwa [hsrc]) hlevel hmode
      hmask
  obtain ⟨t, hsteps, hphase, hw, hcopied⟩ := hcopies.steps_opcode hpos hstep
  refine ⟨t, hsteps, hphase, ?position, ?pointer, ⟨?kind, ?length, ?source⟩, State.beginRun_endRun_w hw,
    hcopied.cfg, hcopied.st, hcopied.pending, hcopied.rdData, hcopied.spaces, hcopied.drawn, hcopied.others⟩ <;> rw [hw]
  case position => exact State.endRun_x_of_rle hf hx
  case pointer => exact State.endRun_sp_of_rle hf (hsp.trans_lt hend)
  case kind => rw [State.endRun_w_runKind]; rfl
  case length => rw [State.endRun_w_runLen]; rfl
  case source => rw [State.endRun_w_runSrc]; exact hsrc

/-! ### A whole opaque row -/

/-- Inside an opaque row the step is the row (R62, R81). -/
theorem step_rawrow {s : State} (hp : s.phase = .opcode) (hx : s.w.x < s.cfg.width)
    (hf : s.cfg.opaqueFmt = true) : step s = execRawrow s :=
  step_eq_exec (i := .rawrow) (by simp [hp]) (fetch_rawrow hp hx hf) rfl

/-- Settles O55: the `RAWROW` begins a run of the whole row that copies its bytes, and the end of the run moves `X` and
`SP`. -/
theorem rawRowCopiesItsPixels : Obligations.RawRowCopiesItsPixels := by
  intro s p hp hfmt hx hpos hsp hsend hbytes hlevel hmode hmask
  have hf : s.cfg.opaqueFmt = true := ConfigRegs.opaqueFmt_iff.2 hfmt
  have hx0 : s.w.x.toNat = 0 := by rw [hx]; rfl
  have hsrc : s.w.spAddr.toNat = s.w.sp.toNat := by
    rw [WorkRegs.spAddr_toNat]
    exact Nat.mod_eq_of_lt (by omega)
  have hstep : step s = .next (s.beginRun s.cfg.width s.w.spAddr) := by
    rw [step_rawrow hp (BitVec.lt_def.2 (by omega)) hf, execRawrow_fits hsp]
  have hcopies : (s.beginRun s.cfg.width s.w.spAddr).CopiesPayload p :=
    .beginRun (fun _ => hx) (by omega) (by omega) (by rwa [hsrc]) hlevel hmode (by simpa only [hx0, Nat.zero_add])
  obtain ⟨t, hsteps, hphase, hw, hcopied⟩ := hcopies.steps_opcode hpos hstep
  have hdrawn := hcopied.drawn
  have hothers := hcopied.others
  rw [hx0, Nat.add_zero] at hdrawn hothers
  refine ⟨t, hsteps, hphase, ?position, ?pointer, ⟨?kind, ?length, ?source⟩, State.beginRun_endRun_w hw,
    hcopied.cfg, hcopied.st, hcopied.pending, hcopied.rdData, hcopied.spaces, hdrawn, hothers⟩ <;> rw [hw]
  case position => rw [State.endRun_w_x]; exact if_pos hf
  case pointer => exact State.endRun_sp_of_opaque hf (by rw [State.beginRun_w_sp, State.beginRun_cfg]; omega)
  case kind => rw [State.endRun_w_runKind]; rfl
  case length => rw [State.endRun_w_runLen]; rfl
  case source => rw [State.endRun_w_runSrc]; exact hsrc

end Sys2Proof.Machine
end

section
/-! PROOFS. Table lookups (spec/41_table_lookup.md): the entries that `LIGHT` and `BLEND0` give, and the operation that
stores what `BLEND0` gives. -/

namespace Sys2Proof.Machine

/-- A lookup in a table that a draw may select answers the entry of that table (R47). -/
theorem Spaces.lookupLt_eq_ok {m : Spaces} {sel : BitVec 5} {v u : Byte} (h : sel.toNat < 20) :
    m.lookupLt sel v = .ok u ↔ m.lt.read (sel.toNat * 256 + v.toNat) = some u :=
  Spaces.readByte_eq_ok.trans (and_iff_right (ltAddr_lt_size h v))

/-- The blend of a byte with black is its entry in column 0 of BL (R48, R88). -/
theorem Spaces.blend0_eq_ok {m : Spaces} {d u : Byte} : m.blend0 d = .ok u ↔ m.bl.read (d.toNat * 256) = some u := by
  have hcolumn : blAddr d 0#8 = d.toNat * 256 := by simp [blAddr]
  rw [← hcolumn]
  exact Spaces.readByte_eq_ok.trans (and_iff_right (blAddr_lt_size d 0#8))

/-- Settles O34, by the three cases of R87. -/
theorem lightTableApply : Obligations.LightTableApply := by
  intro m sel v
  refine ⟨fun h0 => Spaces.light_of_eq_zero h0 m v, fun h15 => Spaces.light_of_eq_fifteen h15 m v, ?table⟩
  case table =>
    intro h0 h15 h20 u hu
    rw [Spaces.light_of_table h0 h15]
    exact (Spaces.lookupLt_eq_ok h20).2 hu

/-- The engine's write stores its byte at its address, and changes nothing else. -/
theorem State.writeFb_storesByte (s : State) (a : Addr) (v : Byte) : StoresByte s (s.writeFb a v) a v where
  stored := Cells.read_write_same s.mem.fb a.toNat v
  others := fun _ hb => Cells.read_write_other s.mem.fb v hb
  spr := rfl
  lt := rfl
  bl := rfl
  msk := rfl
  cfg := rfl
  st := rfl
  work := rfl
  phase := rfl
  pix := rfl
  pending := rfl
  rdData := rfl

/-- `PIX_BLEND0` where the surface and the table both answer (R115). -/
theorem execPixBlend0_of_ok {s : State} {d u : Byte} (lc : BitVec 2) (hd : s.surface = .ok d)
    (hu : s.mem.blend0 d = .ok u) : execPixBlend0 lc s = .next (s.writeFb s.pixAddr u) := by
  rw [execPixBlend0, hd, withValue_ok, hu, withValue_ok]

/-- Settles O38: the byte that the operation reads names the entry that it stores. -/
theorem pixBlend0DarkensDestination : Obligations.PixBlend0DarkensDestination := by
  intro s lc d u hd hu
  have hsurface : s.surface = .ok d := Spaces.readByte_fb.2 hd
  have hentry : s.mem.blend0 d = .ok u := Spaces.blend0_eq_ok.2 hu
  exact ⟨_, execPixBlend0_of_ok lc hsurface hentry, s.writeFb_storesByte s.pixAddr u⟩

end Sys2Proof.Machine
end

section
/-! PROOFS. The effective bit (spec/42_mask_apply.md): the mask bit of a row position, the checkerboard, and the bit that
the mode makes of the two. -/

namespace Sys2Proof.Machine

/-! ### The mask bit -/

/-- No mask leaves every position set (R100). -/
theorem State.mbit_of_not_maskEn {s : State} (h : s.cfg.maskEn = false) (x : Pos) : s.mbit x = true := by
  rw [State.mbit, h, Bool.not_false, Bool.true_or]

/-- Under a mask, position 0 is the top bit of the mask word (R99, R100). -/
theorem State.mbit_of_maskEn {s : State} {x : Pos} (h : s.cfg.maskEn = true) (hx : x.toNat < 64) :
    s.mbit x = s.w.mw.getLsbD (63 - x.toNat) := by
  rw [State.mbit, h, Bool.not_true, Bool.false_or, BitVec.getMsbD, decide_eq_true hx, Bool.true_and]
  rfl

/-- Settles O31, by whether there is a mask. -/
theorem maskBitOfPosition : Obligations.MaskBitOfPosition :=
  fun _ x => ⟨fun hoff => State.mbit_of_not_maskEn hoff x, State.mbit_of_maskEn⟩

/-! ### The checkerboard -/

/-- Bit 0 of a number is its parity. -/
theorem toNat_getLsbD_zero {k : Nat} (b : BitVec k) : (b.getLsbD 0).toNat = b.toNat % 2 := by
  rw [BitVec.getLsbD, Nat.toNat_testBit, Nat.pow_zero, Nat.div_one]

/-- Exclusive or is the sum of parities: three bits cancel exactly when an even number of them is set. -/
theorem not_xor_xor_iff_even (a b c : Bool) : (!((a ^^ b) ^^ c)) = true ↔ (a.toNat + b.toNat + c.toNat) % 2 = 0 := by
  decide +revert

/-- The checkerboard keeps the positions of even sum of phase, position and row (R101). -/
theorem State.stip_iff_even (s : State) (x : Pos) :
    s.stip x = true ↔ (s.w.p0.toNat + x.toNat + s.w.r.toNat) % 2 = 0 := by
  rw [State.stip, not_xor_xor_iff_even, toNat_getLsbD_zero, toNat_getLsbD_zero]
  omega

/-- The other phase exchanges the kept and the omitted positions of a row (R104). -/
theorem State.stip_of_other_phase {s s' : State} (hr : s'.w.r = s.w.r) (hp : s'.w.p0 = !s.w.p0) (x : Pos) :
    s'.stip x = !s.stip x := by
  rw [State.stip, State.stip, hr, hp, Bool.not_xor, Bool.not_xor]

/-- Settles O32: the parity of R101, whose value the phase alone turns over. -/
theorem stippleIsCheckerboard : Obligations.StippleIsCheckerboard := by
  intro s x
  have hphase : (if s.w.p0 then 1 else 0) = s.w.p0.toNat := (Bool.cond_eq_ite ..).symm
  rw [hphase]
  exact ⟨s.stip_iff_even x, fun _ hr hp => State.stip_of_other_phase hr hp x⟩

/-! ### The bit of the mode -/

/-- Outside `STIPPLED` the effective bit is the mask bit (R102). -/
theorem State.ebit_of_not_stippled {s : State} (h : s.cfg.mode ≠ 1#2) (x : Pos) : s.ebit x = s.mbit x := by
  have hstip : s.cfg.stippled = false := beq_eq_false_iff_ne.2 h
  rw [State.ebit, hstip, Bool.not_false, Bool.true_or, Bool.and_true]

/-- In `STIPPLED` the checkerboard is combined with the mask (R102). -/
theorem State.ebit_of_stippled {s : State} (h : s.cfg.mode = 1#2) (x : Pos) : s.ebit x = (s.mbit x && s.stip x) := by
  have hstip : s.cfg.stippled = true := beq_iff_eq.2 h
  rw [State.ebit, hstip, Bool.not_true, Bool.false_or]

/-- Settles O33, by the mode; neither `NORMAL` nor `BLENDED` is `STIPPLED`. -/
theorem effectiveBitByMode : Obligations.EffectiveBitByMode := by
  intro s x
  refine ⟨fun hmode => ?plain, fun hmode => State.ebit_of_stippled hmode x⟩
  case plain =>
    refine State.ebit_of_not_stippled ?_ x
    obtain hnormal | hblended := hmode
    · rw [hnormal]; decide
    · rw [hblended]; decide

end Sys2Proof.Machine
end

section
/-! PROOFS. Pixel operations (spec/43_pixel_ops.md): what each of them stores, the pixel that clipping passes over, and
the part of the surface that a draw writes. -/

namespace Sys2Proof.Machine

/-! ### The operations that store -/

/-- The address of the payload byte of a pixel, `RUN_SRC + i` modulo `2^AW` (R45, R77). -/
theorem State.payloadAddr_toNat (s : State) :
    s.payloadAddr.toNat = (s.w.runSrc.toNat + s.pix.toNat) % 2 ^ 32 := by
  rw [State.payloadAddr, BitVec.toNat_add, BitVec.toNat_setWidth_of_le (by decide)]

/-- The payload byte of a pixel is what SPR holds at its address (R45, R77). -/
theorem State.payload_eq_ok {s : State} {v : Byte} :
    s.payload = .ok v ↔ s.mem.spr.read ((s.w.runSrc.toNat + s.pix.toNat) % 2 ^ 32) = some v := by
  rw [← State.payloadAddr_toNat]
  exact Spaces.readByte_spr

/-- `PIX_COPY` where the stream answers (R112). -/
theorem execPixCopy_of_ok {s : State} {v : Byte} (b : Bool) (hv : s.payload = .ok v) :
    execPixCopy b s = .next (s.writeFb s.pixAddr v) := by
  rw [execPixCopy, hv, withValue_ok]

/-- `PIX_REMAP` where the stream and the table both answer (R114). -/
theorem execPixRemap_of_ok {s : State} {v u : Byte} (b : Bool) (hv : s.payload = .ok v)
    (hu : s.mem.lookupLt s.cfg.ltsel v = .ok u) : execPixRemap b s = .next (s.writeFb s.pixAddr u) := by
  rw [execPixRemap, hv, withValue_ok, hu, withValue_ok]

/-- Settles O35: the payload byte is what the operation stores. -/
theorem pixCopyStoresPayload : Obligations.PixCopyStoresPayload := by
  intro s b v hv
  exact ⟨_, execPixCopy_of_ok b (State.payload_eq_ok.2 hv), s.writeFb_storesByte s.pixAddr v⟩

/-- Settles O36: the operation reads nothing, and its store is the whole of it. -/
theorem pixFill0StoresZero : Obligations.PixFill0StoresZero :=
  fun s _ => ⟨_, rfl, s.writeFb_storesByte s.pixAddr 0x00#8⟩

/-- Settles O37: the payload byte names the entry that the operation stores. -/
theorem pixRemapStoresTableEntry : Obligations.PixRemapStoresTableEntry := by
  intro s b v u h20 hv hu
  have hpayload : s.payload = .ok v := State.payload_eq_ok.2 hv
  have hentry : s.mem.lookupLt s.cfg.ltsel v = .ok u := (Spaces.lookupLt_eq_ok h20).2 hu
  exact ⟨_, execPixRemap_of_ok b hpayload hentry, s.writeFb_storesByte s.pixAddr u⟩

/-! ### The operation that keeps -/

/-- Settles O39: `PIX_KEEP` is the identity by definition. -/
theorem pixKeepChangesNothing : Obligations.PixKeepChangesNothing := fun _ _ => rfl

/-! ### Clipping -/

/-- A pixel is clipped in an invisible row, or at an address below or past the valid range (R107, R108). -/
theorem State.pixVisible_eq_false_iff {s : State} :
    s.pixVisible = false ↔
      s.w.vis = false ∨ s.pixAddr.toNat < s.cfg.fbLo.toNat ∨ s.cfg.fbHi.toNat ≤ s.pixAddr.toNat := by
  rw [← Bool.not_eq_true, State.pixVisible_iff, not_and_or, not_and_or, Bool.not_eq_true, Nat.not_le, Nat.not_lt]

/-- Going on after a pixel touches working registers and the place in the draw alone (R77). -/
theorem State.nextPixel_onlyWorkChanges (s : State) : OnlyWorkChanges s s.nextPixel where
  cfg := s.nextPixel_cfg
  st := s.nextPixel_st
  mem := s.nextPixel_mem
  pending := s.nextPixel_pending
  rdData := s.nextPixel_rdData

/-- Settles O41: a clipped pixel has no operation, and what is left of its step is going on to the next. -/
theorem clippedPixelIsSilent : Obligations.ClippedPixelIsSilent := by
  intro s hp hclip
  exact ⟨step_clipped hp (State.pixVisible_eq_false_iff.2 hclip), s.nextPixel_onlyWorkChanges⟩

/-! ### What a draw writes -/

/-- `t` has the spaces, the configuration registers and the host's queue and read data of `s`: what the engine may change
without a store (R34, R51). -/
structure KeepsSpacesAndConfig (s t : State) : Prop where
  mem : t.mem = s.mem
  cfg : t.cfg = s.cfg
  pending : t.pending = s.pending
  rdData : t.rdData = s.rdData

theorem OnlyWorkChanges.keepsSpacesAndConfig {s t : State} (h : OnlyWorkChanges s t) : KeepsSpacesAndConfig s t :=
  ⟨h.mem, h.cfg, h.pending, h.rdData⟩

/-- Fault entry changes status alone (R134). -/
theorem State.raiseStream_keepsSpacesAndConfig (s : State) (c : Cause) (ctl : Byte) (x : Pos) :
    KeepsSpacesAndConfig s (s.raiseStream c ctl x) where
  mem := s.raiseStream_mem c ctl x
  cfg := s.raiseStream_cfg c ctl x
  pending := s.raiseStream_pending c ctl x
  rdData := s.raiseStream_rdData c ctl x

/-- The opcode of a control byte stores nothing: it faults, skips, or begins a run (R78 to R80). -/
theorem exec_control_keepsSpacesAndConfig {c : Byte} {s t : State} (h : exec (decodeC8 c) s = .next t) :
    KeepsSpacesAndConfig s t := by
  obtain ⟨k, ctl, x, -, rfl⟩ | ⟨n, -, rfl⟩ | ⟨n, -, -, -, rfl⟩ := exec_control_next h
  · exact s.raiseStream_keepsSpacesAndConfig k ctl x
  · exact (s.skipRun_onlyWorkChanges n).keepsSpacesAndConfig
  · exact (s.beginRun_onlyWorkChanges n _).keepsSpacesAndConfig

/-- An opaque row stores nothing: it faults or begins a run (R81). -/
theorem exec_rawrow_keepsSpacesAndConfig {s t : State} (h : exec .rawrow s = .next t) : KeepsSpacesAndConfig s t := by
  obtain ⟨k, ctl, x, -, rfl⟩ | ⟨-, rfl⟩ := exec_rawrow_next h
  · exact s.raiseStream_keepsSpacesAndConfig k ctl x
  · exact (s.beginRun_onlyWorkChanges _ _).keepsSpacesAndConfig

/-- A step of a draw stores nothing, or one byte at the address of a pixel that survives clipping (R34, R117). -/
theorem StepTo.draw_stores {s t : State} (h : StepTo s t) (hdraw : s.phase ≠ .idle) :
    KeepsSpacesAndConfig s t ∨ (s.pixVisible = true ∧ ∃ v, KeepsSpacesAndConfig (s.writeFb s.pixAddr v) t) := by
  cases h with
  | hostIdle hp | hostPoke _ _ _ _ hp | hostPokeMask _ _ _ hp | hostCommand _ _ _ hp => exact absurd hp hdraw
  | frameEnd | rowMasked | rowUnmasked | rowEnd => exact .inl ⟨rfl, rfl, rfl, rfl⟩
  | maskRows | fetchTrunc => exact .inl (s.raiseStream_keepsSpacesAndConfig _ _ _)
  | rawrow hp hx hf ht => exact .inl (exec_rawrow_keepsSpacesAndConfig ht)
  | control c hp hx hf he hc ht => exact .inl (exec_control_keepsSpacesAndConfig ht)
  | pixelClipped => exact .inl s.nextPixel_onlyWorkChanges.keepsSpacesAndConfig
  | pixelOp i hp hv hi ht =>
    obtain rfl | ⟨v, rfl⟩ := exec_psel_next hi ht
    · exact .inl (State.nextPixel_onlyWorkChanges _).keepsSpacesAndConfig
    · exact .inr ⟨hv, v, (State.nextPixel_onlyWorkChanges _).keepsSpacesAndConfig⟩

/-- Settles O45: the one byte that a step of a draw may store is at an address that clipping has found valid. -/
theorem drawWritesOnlyValidSurface : Obligations.DrawWritesOnlyValidSurface := by
  intro s t hdraw hstep
  obtain ⟨hmem, hcfg, hpending, hrd⟩ | ⟨hv, v, hmem, hcfg, hpending, hrd⟩ := (step_cases hstep).draw_stores hdraw
  case inl =>
    rw [hmem]
    exact ⟨fun _ _ => rfl, rfl, rfl, rfl, rfl, hcfg, hpending, hrd⟩
  case inr =>
    obtain ⟨-, hlo, hhi⟩ := State.pixVisible_iff.1 hv
    have hstore := s.writeFb_storesByte s.pixAddr v
    rw [hmem]
    exact ⟨fun a ha => hstore.others a (by omega), rfl, rfl, rfl, rfl, hcfg, hpending, hrd⟩

end Sys2Proof.Machine
end

section
/-! PROOFS. Host commands (spec/44_host_commands.md): a register write at every offset, the status clear, and the three
outcomes of `START`: a refused configuration, a draw, and the fault of a configuration that is still at its reset
values. -/

namespace Sys2Proof.Machine

/-! ### The checks of `START` -/

/-- The start checks in their order, in numbers (R124). -/
theorem ConfigRegs.startCheck_eq (c : ConfigRegs) : c.startCheck =
    if c.fmt = 2#2 ∨ c.fmt = 3#2 then .cfgFmt
    else if c.mode = 3#2 then .cfgMode
    else if 20 ≤ c.ltsel.toNat then .cfgLtsel
    else if c.width.toNat = 0 then .cfgWidth
    else if c.maskEn = true ∧ (64 < c.width.toNat ∨ 256 < c.maskAddr.toNat + 32) then .cfgMask
    else if 2 ^ 32 < c.srcAddr.toNat + c.srcLen.toNat ∨ c.fbHi.toNat < c.fbLo.toNat then .cfgRange
    else .none := by
  have hwidth : c.width = 0 ↔ c.width.toNat = 0 := BitVec.toNat_inj.symm
  simp only [ConfigRegs.startCheck, ConfigRegs.extentEnd_toNat, BitVec.le_def, BitVec.lt_def, hwidth]
  rfl

/-! ### A refused draw -/

/-- `START` under a configuration that fails a check takes the fault of that check, with a zero record (R123, R131). -/
theorem State.startDraw_of_check_ne {s : State} (h : s.cfg.startCheck ≠ .none) :
    s.startDraw = s.clearForDraw.raiseCfg s.cfg.startCheck :=
  if_neg h

/-- A refused `START` is a fault entry from the state with `ROWS_DONE` cleared; that `DONE` was cleared too is not seen,
since fault entry sets it (R123, R131, R134). -/
theorem exec_start_refused {s : State} {c : Cause} (h : s.cfg.startCheck = c) (hc : c ≠ .none) (v : Reg32) :
    ∃ t, exec (.start v) s = .next t ∧ FaultEntry { s with st := { s.st with rowsDone := 0 } } t c 0 0 0 := by
  subst h
  have hentry := s.clearForDraw.raise_faultEntry s.cfg.startCheck 0 0 0
  refine ⟨s.startDraw, rfl, ?_⟩
  rw [State.startDraw_of_check_ne hc]
  exact { hentry with }

/-- Settles O15, by the first of the checks that fails. -/
theorem startRefusesBadConfiguration : Obligations.StartRefusesBadConfiguration := by
  intro s v
  have hcheck := s.cfg.startCheck_eq
  refine ⟨fun hfmt => ?fmt, fun hfmt hmode => ?mode, fun hfmt hmode hltsel => ?ltsel,
    fun hfmt hmode hltsel hwidth => ?width, fun hfmt hmode hltsel hwidth hmask => ?mask,
    fun hfmt hmode hltsel hwidth hmask hrange => ?range⟩ <;> refine exec_start_refused (hcheck.trans ?_) (by decide) v
  case fmt => exact if_pos hfmt
  case mode => rw [if_neg hfmt, if_pos hmode]
  case ltsel => rw [if_neg hfmt, if_neg hmode, if_pos hltsel]
  case width => rw [if_neg hfmt, if_neg hmode, if_neg hltsel, if_pos hwidth]
  case mask => rw [if_neg hfmt, if_neg hmode, if_neg hltsel, if_neg hwidth, if_pos hmask]
  case range => rw [if_neg hfmt, if_neg hmode, if_neg hltsel, if_neg hwidth, if_neg hmask, if_pos hrange]

/-- Settles O17: of the registers after reset the width is the first that fails its check. -/
theorem startAfterResetFaultsOnWidth : Obligations.StartAfterResetFaultsOnWidth := by
  intro v
  have hcheck : State.reset.cfg.startCheck = .cfgWidth := by decide
  obtain ⟨t, ht, hentry⟩ := exec_start_refused hcheck (by decide) v
  obtain ⟨hcause, hpc, hrow, hx⟩ := hentry.latched rfl
  have hword : t.st.word = 0x43#32 := by
    apply BitVec.eq_of_toNat_eq
    rw [(statusWordFields.1 t.st).1, hcause, hentry.done]
    rfl
  exact ⟨t, ht, hcause, hword, hpc, hrow, hx, hentry.rowsDone, hentry.mem⟩

/-! ### A draw that begins -/

/-- The formats below 2, `OPAQUE` and `RLE`, are not the reserved ones (R21). -/
theorem ConfigRegs.fmt_not_reserved {c : ConfigRegs} (h : c.fmt.toNat < 2) : ¬ (c.fmt = 2#2 ∨ c.fmt = 3#2) := by
  rintro (hfmt | hfmt) <;> simp [hfmt] at h

/-- Within all the bounds of R124 no check fails. -/
theorem ConfigRegs.startCheck_eq_none {c : ConfigRegs} (hfmt : c.fmt.toNat < 2) (hmode : c.mode.toNat < 3)
    (hltsel : c.ltsel.toNat < 20) (hwidth : 0 < c.width.toNat)
    (hmask : c.maskEn = true → c.width.toNat ≤ 64 ∧ c.maskAddr.toNat + 32 ≤ 256)
    (hextent : c.srcAddr.toNat + c.srcLen.toNat ≤ 2 ^ 32) (hfb : c.fbLo.toNat ≤ c.fbHi.toNat) :
    c.startCheck = .none := by
  have hmode' : c.mode ≠ 3#2 := fun h => by simp [h] at hmode
  have hmask' : ¬ (c.maskEn = true ∧ (64 < c.width.toNat ∨ 256 < c.maskAddr.toNat + 32)) := fun ⟨hen, hbad⟩ => by
    obtain ⟨hw, ha⟩ := hmask hen
    omega
  rw [ConfigRegs.startCheck_eq, if_neg (ConfigRegs.fmt_not_reserved hfmt), if_neg hmode', if_neg (by omega),
    if_neg (by omega), if_neg hmask', if_neg (by omega)]

/-- Settles O16, by the initialisation of R125. -/
theorem startInitialisesWorkingRegisters : Obligations.StartInitialisesWorkingRegisters := by
  intro s v hfmt hmode hltsel hwidth hmask hextent hfb
  have hcheck := ConfigRegs.startCheck_eq_none hfmt hmode hltsel hwidth hmask hextent hfb
  have hsp : (s.cfg.srcAddr.setWidth 33).toNat = s.cfg.srcAddr.toNat := BitVec.toNat_setWidth_of_le (by decide)
  have hp0 : s.cfg.dstAddr.getLsbD 0 = true ↔ s.cfg.dstAddr.toNat % 2 = 1 := by
    rw [← toNat_getLsbD_zero, Bool.toNat_eq_one]
  exact ⟨s.clearForDraw.beginDraw, congrArg _ (State.startDraw_of_check hcheck), rfl, hsp, s.cfg.extentEnd_toNat, rfl,
    rfl, hp0, ⟨rfl, rfl, rfl, rfl, rfl, rfl⟩, rfl, rfl, rfl, rfl, rfl, rfl⟩

/-! ### A register write -/

/-- Offsets from `0x3C` on are reserved (R31). -/
theorem Reg.ofOffset_eq_none {off : BitVec 8} (h : 0x3C ≤ off.toNat) : Reg.ofOffset off = none := by
  revert off
  decide

/-- A write at the offset of a configuration register changes what storing to that register changes (R121). -/
theorem exec_wr_cfg {off : BitVec 8} {q : Reg} {c : ConfigRegs} {s : State} {v : Reg32}
    (hoff : Reg.ofOffset off = some q) (hq : q.writable ≠ 0) (hc : s.cfg.write q v = c) :
    exec (.wr off v) s = .next { s with cfg := c } := by
  rw [exec_wr_config hoff hq, State.writeReg, hc]

/-- Narrowing a word to `k` bits takes it modulo `2^k`. -/
theorem setWidth_eq_ofNat_mod (k : Nat) (v : Reg32) : v.setWidth k = BitVec.ofNat k (v.toNat % 2 ^ k) := by
  apply BitVec.eq_of_toNat_eq
  rw [BitVec.toNat_setWidth, BitVec.toNat_ofNat, Nat.mod_mod]

/-- Settles O12, by the register that the offset names. -/
theorem registerWriteStores : Obligations.RegisterWriteStores := by
  intro s v
  have haddr : v.setWidth Config.AW = v := BitVec.setWidth_eq v
  have hwidth : v.setWidth Config.WIDTH_BITS = BitVec.ofNat 16 (v.toNat % 65536) := setWidth_eq_ofNat_mod 16 v
  have hindex : v.setWidth Config.MASK_ADDR_BITS = BitVec.ofNat 8 (v.toNat % 256) := setWidth_eq_ofNat_mod 8 v
  refine ⟨exec_wr_cfg rfl (by decide) rfl, exec_wr_cfg rfl (by decide) ?srcAddr, exec_wr_cfg rfl (by decide) ?srcLen,
    exec_wr_cfg rfl (by decide) ?width, exec_wr_cfg rfl (by decide) ?dstAddr, exec_wr_cfg rfl (by decide) ?pitch,
    exec_wr_cfg rfl (by decide) ?fbLo, exec_wr_cfg rfl (by decide) ?fbHi, exec_wr_cfg rfl (by decide) ?maskAddr,
    rfl, rfl, rfl, rfl, rfl, rfl, fun off hoff => ?reserved⟩
  case width => rw [ConfigRegs.write, hwidth]
  case maskAddr => rw [ConfigRegs.write, hindex]
  case reserved => rw [exec, execWr, Reg.ofOffset_eq_none hoff]
  case srcAddr | srcLen | dstAddr | pitch | fbLo | fbHi => rw [ConfigRegs.write, haddr]

/-! ### The status clear -/

/-- Settles O14, by the two bits of the value. -/
theorem statusClearClearsWhatIsAsked : Obligations.StatusClearClearsWhatIsAsked := by
  intro s v
  refine ⟨s.statusClear v, rfl, fun hdone => ?clearDone, fun hdone => ?keepDone, fun hrecord => ?clearRecord,
    fun hrecord => ?keepRecord, s.statusClear_st_rowsDone v, s.statusClear_cfg v, s.statusClear_w v,
    s.statusClear_mem v, s.statusClear_phase v, s.statusClear_pix v, s.statusClear_pending v, s.statusClear_rdData v⟩
  case clearDone => rw [State.statusClear_st_done, if_pos hdone]
  case keepDone => rw [State.statusClear_st_done, hdone, if_neg Bool.false_ne_true]
  case clearRecord =>
    simp only [State.statusClear_st_cause, State.statusClear_st_faultPc, State.statusClear_st_faultRow,
      State.statusClear_st_faultX, hrecord, if_true, and_self]
  case keepRecord =>
    obtain ⟨hcause, hpc, hrow, hx⟩ := SameRecord.statusClear (s := s) hrecord
    exact ⟨hcause, hpc, hrow, hx⟩

end Sys2Proof.Machine
end

section
/-! PROOFS. Reset and hazards (spec/70_reset_and_hazards.md): the registers after reset, the idle engine, and the
invariant at reset. -/

namespace Sys2Proof.Machine

/-! ### The registers after reset -/

/-- After reset `STATUS` reads zero: no flag is set and `CAUSE` holds code 0 (R28, R142). -/
theorem State.reset_st_word : State.reset.st.word = 0 := by decide

/-- After reset a host reads zero from every register (R142). -/
theorem State.reset_readReg (q : Reg) : State.reset.readReg q = 0 := by
  cases q
  case ctrl => exact BitVec.zero_and
  case status => exact State.reset_st_word
  case start | faultX => rfl
  case srcAddr | srcLen | width | dstAddr | pitch | fbLo | fbHi | maskAddr | faultPc | faultRow | rowsDone =>
    exact BitVec.setWidth_zero _ _

/-- After reset a host reads zero at every offset, of a register or reserved (R31, R142). -/
theorem State.reset_readOffset (off : BitVec 8) : State.reset.readOffset off = 0 := by
  unfold State.readOffset
  split
  next q _ => exact State.reset_readReg q
  next => rfl

/-! ### The idle engine -/

/-- An idle engine with no host action in its queue does nothing (R142). -/
theorem step_of_idle_of_pending_nil {s : State} (hp : s.phase = .idle) (hq : s.pending = []) : step s = .next s := by
  simp only [step, fetch, hp, fetchHost, hq]

/-- Settles O7, from what each register reads after reset and the idle step. -/
theorem resetRegistersAreZero : Obligations.ResetRegistersAreZero :=
  ⟨⟨rfl, rfl, rfl, rfl, rfl, rfl, rfl, rfl, rfl⟩, ⟨rfl, rfl, rfl, rfl, rfl, rfl⟩, State.reset_readOffset, rfl,
    fun _ => step_of_idle_of_pending_nil⟩

/-! ### The invariant at reset -/

/-- The fault record after reset is zero, as it must be while `CAUSE` is 0 (R29, R142). -/
theorem State.reset_recordMatches : State.reset.st.RecordMatches :=
  ⟨fun _ => rfl, fun _ => rfl, fun _ => rfl⟩

/-- Settles O9: reset is outside a draw, so only the spaces, the reserved bits of `CTRL` and the record matter. -/
theorem resetMeetsInvariant : Obligations.ResetMeetsInvariant :=
  have hreserved : State.reset.cfg.ReservedZero := BitVec.zero_and
  State.Inv.of_idle State.reset_canonical hreserved State.reset_recordMatches rfl

end Sys2Proof.Machine
end

section
/-! PROOFS. Host commands (spec/44_host_commands.md), the register read: what it returns at every offset. -/

namespace Sys2Proof.Machine

/-- A register read changes the read data alone, to what stands at the offset (R122). -/
theorem exec_rd (off : BitVec 8) (s : State) : exec (.rd off) s = .next { s with rdData := s.readOffset off } := rfl

/-- At the offset of a register the host reads that register (R122). -/
theorem State.readOffset_of_ofOffset {off : BitVec 8} {q : Reg} (hoff : Reg.ofOffset off = some q) (s : State) :
    s.readOffset off = s.readReg q := by
  rw [State.readOffset, hoff]

/-- A reserved offset reads 0 (R31, R122). -/
theorem State.readOffset_reserved {off : BitVec 8} (hoff : 0x3C ≤ off.toNat) (s : State) : s.readOffset off = 0 := by
  rw [State.readOffset, Reg.ofOffset_eq_none hoff]

/-- `WIDTH` is read with 0 above its bits (R23, R122). -/
theorem State.readReg_width_toNat (s : State) : (s.readReg .width).toNat = s.cfg.width.toNat :=
  BitVec.toNat_setWidth_of_le (by decide)

/-- `MASK_ADDR` is read with 0 above its bits (R26, R122). -/
theorem State.readReg_maskAddr_toNat (s : State) : (s.readReg .maskAddr).toNat = s.cfg.maskAddr.toNat :=
  BitVec.toNat_setWidth_of_le (by decide)

/-- `STATUS` is read as the sum of its fields at their places (R28, R122). -/
theorem State.readReg_status_toNat (s : State) :
    (s.readReg .status).toNat =
      s.st.cause.code.toNat * 16 + (if s.st.cause = .none then 0 else 2) + (if s.st.done then 1 else 0) :=
  (statusWordFields.1 s.st).1

/-- Settles O10, by the register that each offset names: a field of 32 bits is read as it stands, a narrower one as the
same number. -/
theorem registerReadReturnsValue : Obligations.RegisterReadReturnsValue := by
  intro s off
  have hread {k : BitVec 8} {q : Reg} (hk : Reg.ofOffset k = some q) (hoff : off = k) :
      s.readOffset off = s.readReg q := State.readOffset_of_ofOffset (hoff ▸ hk) s
  refine ⟨s.readOffset off, exec_rd off s, fun h => ?ctrl, fun h => ?srcAddr, fun h => ?srcLen, fun h => ?width,
    fun h => ?dstAddr, fun h => ?pitch, fun h => ?fbLo, fun h => ?fbHi, fun h => ?maskAddr, fun h => ?start,
    fun h => ?status, fun h => ?faultPc, fun h => ?faultRow, fun h => ?faultX, fun h => ?rowsDone,
    fun h => State.readOffset_reserved h s⟩
  case ctrl | start | faultX => exact hread rfl h
  case width => rw [hread rfl h, s.readReg_width_toNat]
  case maskAddr => rw [hread rfl h, s.readReg_maskAddr_toNat]
  case status => rw [hread rfl h, s.readReg_status_toNat]
  case srcAddr | srcLen | dstAddr | pitch | fbLo | fbHi | faultPc | faultRow | rowsDone =>
    rw [hread rfl h]
    exact BitVec.setWidth_eq _

end Sys2Proof.Machine
end
